-- ==== Sys2Proof/Word.lean ====
section
/-! DEFINITION. The word types of the display core: bytes, scores, and the bits of a byte. -/

namespace Sys2Proof

/-- A byte: 8 bits, bit 0 the least significant (00_scope.md R13). -/
abbrev Byte := BitVec 8

/-- A score operand, 16 bits unsigned (41_segment_encoder.md R120). -/
abbrev Score := BitVec 16

/-- A one-bit level of a line or a cell: 0 is `false`, 1 is `true` (00_scope.md R13). -/
abbrev Level := Bool

end Sys2Proof
end

