-- ==== Sys2Proof/Config.lean ====
section
/-! DEFINITION. The fixed constants and the OPEN parameters of the block (00_scope.md R6 to R12,
92_eei_decisions.md part 2), the constraints on them, the reference configuration REF, and the
configuration of the platform, which nothing in Lean can evaluate. -/

namespace Sys2Proof

/-- Queue capacity (00_scope.md R7). -/
abbrev qcap : Nat := 20

/-- Message buffer capacity (00_scope.md R7). -/
abbrev msgcap : Nat := 50

/-- The largest visible length, the size of the window (00_scope.md R7). -/
abbrev visMax : Nat := 26

/-- The device code of a position that receives no character (00_scope.md R7). -/
abbrev fillCode : Byte := 0x00#8

/-- The device code of a blank character position (00_scope.md R7, 90_conflicts.md C3). -/
abbrev blankCode : Byte := 0x00#8

/-- The bit the scramble forces on (00_scope.md R7). -/
abbrev scrambleBit : Byte := 0x80#8

/-- The five line assignments, the operand of `INIT` (30_encoding.md R79). No rule reads them.
DESIGN CHOICE (unsafe): an assignment is a line number of 8 bits, see log 3. -/
structure PinMap where
  sdi : Byte
  sck : Byte
  rck : Byte
  clr : Byte
  oe  : Byte
deriving DecidableEq, Repr, Inhabited

/-- One value for every OPEN parameter (92_eei_decisions.md part 2), fixed for the life of an
instance of the block (10_state.md R38). Plain data: `PlaceLow7` is held as its table. -/
structure Config where
  /-- `NSEG`, the segment-display count (00_scope.md R6). -/
  nseg : Nat
  /-- `SEG_LUT`, digit to segment byte (00_scope.md R8). -/
  segLut : Vector Byte 10
  /-- `SEG_BLANK`, the pattern of a blanked digit position (00_scope.md R8). -/
  segBlank : Byte
  /-- `CW(CLEAR)` (00_scope.md R9). -/
  cwClear : Byte
  /-- `CW(SET_ENTRY_MODE)` (00_scope.md R9). -/
  cwSetEntryMode : Byte
  /-- `CW(SET_DISPLAY_CONTROL)` (00_scope.md R9). -/
  cwSetDisplayControl : Byte
  /-- `CW(SET_FUNCTION)` (00_scope.md R9). -/
  cwSetFunction : Byte
  /-- `CW(RETURN_HOME)` (00_scope.md R9). -/
  cwReturnHome : Byte
  /-- `CW_DATA`, the data-write control word (00_scope.md R9). -/
  cwData : Byte
  /-- The position of the one bit of `EN_MASK` (00_scope.md R9; log 18). -/
  enBit : Fin 8
  /-- The position of the one bit of `TOP_MASK` (00_scope.md R9; log 18). -/
  topBit : Fin 8
  /-- `PlaceLow7`, 7-bit value to data byte, as a table (00_scope.md R9; log 18). -/
  placeLow7 : Vector Byte 128
  /-- `SEQ_A` (00_scope.md R10). -/
  seqA : List Byte
  /-- `GLYPH_A` (00_scope.md R10). -/
  glyphA : Byte
  /-- `SEQ_O` (00_scope.md R10). -/
  seqO : List Byte
  /-- `GLYPH_O` (00_scope.md R10). -/
  glyphO : Byte
  /-- `CLR_LEVEL` (00_scope.md R11). -/
  clrLevel : Level
  /-- `OE_LEVEL` (00_scope.md R11). -/
  oeLevel : Level
  /-- `LEN_COUNTS_GAP`, the switch of 70_reset_and_hazards.md R266; `false` is the spec's reading
  (90_conflicts.md C5; log 12). -/
  lenCountsGap : Bool
  /-- `T_SETTLE`, the LCD's settle time in some unit; no rule reads it
  (70_reset_and_hazards.md R260). -/
  tSettle : Nat
deriving DecidableEq, Repr, Inhabited

/-- `L = NSEG + 2`, the register image length (00_scope.md R6). -/
abbrev Config.imageLen (c : Config) : Nat := c.nseg + 2

/-- `CTRL = NSEG`, the index of the LCD control byte (00_scope.md R6). -/
abbrev Config.ctrl (c : Config) : Nat := c.nseg

/-- `DATA = NSEG + 1`, the index of the LCD data byte (00_scope.md R6). -/
abbrev Config.data (c : Config) : Nat := c.nseg + 1

/-- `EN_MASK`, exactly one bit set (00_scope.md R9). -/
def Config.enMask (c : Config) : Byte := 1#8 <<< c.enBit.val

/-- `TOP_MASK`, exactly one bit set (00_scope.md R9). -/
def Config.topMask (c : Config) : Byte := 1#8 <<< c.topBit.val

/-- The first byte of a sequence exists and lies outside 32..127 (00_scope.md R10). -/
def startsUnprintable : List Byte → Bool
  | [] => false
  | b :: _ => decide (¬(32 ≤ b.toNat ∧ b.toNat ≤ 127))

/-- The constraints on one special sequence (00_scope.md R10). -/
abbrev SequenceOk (s : List Byte) : Prop :=
  (∀ b ∈ s, b ≠ 0x00#8) ∧ startsUnprintable s = true

/-- The constraints the spec puts on the OPEN parameters (00_scope.md R6, R8, R9, R10). -/
abbrev Config.Ok (c : Config) : Prop :=
  1 ≤ c.nseg ∧
  c.segLut.toList.Nodup ∧
  c.segBlank ∉ c.segLut.toList ∧
  c.enBit ≠ c.topBit ∧
  c.placeLow7.toList.Nodup ∧
  SequenceOk c.seqA ∧
  SequenceOk c.seqO ∧
  c.seqA.isPrefixOf c.seqO = false ∧
  c.seqO.isPrefixOf c.seqA = false

/-- REF, the reference configuration of 00_scope.md R12. It makes test vectors concrete and is
evidence of nothing else; no definition of the machine uses it but as the fallback of
`Config.platform`. -/
def Config.ref : Config where
  nseg := 2
  segLut := #v[0xFC#8, 0x60#8, 0xDA#8, 0xF2#8, 0x66#8, 0xB6#8, 0xBE#8, 0xE0#8, 0xFE#8, 0xF6#8]
  segBlank := 0x00#8
  cwClear := 0x00#8
  cwSetEntryMode := 0x04#8
  cwSetDisplayControl := 0x18#8
  cwSetFunction := 0x70#8
  cwReturnHome := 0x02#8
  cwData := 0x02#8
  enBit := 0
  topBit := 7
  placeLow7 := Vector.ofFn fun i => BitVec.ofNat 8 i.val
  seqA := [0xC3#8, 0xA4#8]
  glyphA := 0xE1#8
  seqO := [0xC3#8, 0xB6#8]
  glyphO := 0xEF#8
  clrLevel := true
  oeLevel := false
  lenCountsGap := false
  tSettle := 0

/-- The value the platform gave each OPEN parameter: any value at all. No proof can see it. -/
opaque Config.chosen : Config

/-- The configuration of the instance that `State.reset` describes: any configuration that meets
the constraints, with `LEN_COUNTS_GAP = 0` as 90_conflicts.md C5 settles it (log 1, log 12).
Where the chosen values break a constraint they are no configuration of this block, and REF
stands in, so that every fact about `Config.platform` is a fact about a legal configuration. -/
def Config.platform : Config :=
  if Config.chosen.Ok then { Config.chosen with lenCountsGap := false } else Config.ref

end Sys2Proof
end

