-- ==== Sys2Proof/Syntax.lean ====
section
/-! DEFINITION. The instructions: the seven LCD opcodes (30_encoding.md R84) and the six host
commands (30_encoding.md R85), one constructor for each row of spec/opcode_table.json. -/

namespace Sys2Proof

/-- One instruction of the block. The LCD opcodes stand in queue slots and have no operand
(30_encoding.md R71); the host commands carry their operands (30_encoding.md R79). -/
inductive Instr where
  /-- LCD opcode 0 (42_lcd_queue.md R159). -/
  | pause
  /-- LCD opcode 1 (42_lcd_queue.md R160). -/
  | clear
  /-- LCD opcode 2 (42_lcd_queue.md R161). -/
  | setEntryMode
  /-- LCD opcode 3 (42_lcd_queue.md R162). -/
  | setDisplayControl
  /-- LCD opcode 4 (42_lcd_queue.md R163). -/
  | setFunction
  /-- LCD opcode 5 (42_lcd_queue.md R165). -/
  | writeNextChar
  /-- LCD opcode 6 (42_lcd_queue.md R164). -/
  | returnHome
  /-- Host command 0 (44_facade.md R200). -/
  | init (pins : PinMap)
  /-- Host command 1 (41_segment_encoder.md R127). -/
  | showScore (score : Score)
  /-- Host command 2 (43_text_encoder.md R190). The terminator is implied at the end of `src`
  (30_encoding.md R93, 93_implementation_defined.md U14; log 20). -/
  | showMessage (src : List Byte) (highScore : Bool)
  /-- Host command 3 (42_lcd_queue.md R171). -/
  | clearLcd
  /-- Host command 4 (41_segment_encoder.md R129). -/
  | clearSegments
  /-- Host command 5 (42_lcd_queue.md R170). -/
  | pollLcd
deriving DecidableEq, Repr

end Sys2Proof
end

