-- ==== Sys2Proof/WellFormed.lean ====
section
/-! DEFINITION. Which terms of `Instr` are instructions of the block. -/

namespace Sys2Proof

/-- The source message of `SHOW_MESSAGE` is null-terminated, so no byte before its end is the
terminator (20_memory.md R50(d), R69). Every other operand is legal at every value of its width. -/
def wellFormed : Instr → Bool
  | .pause => true
  | .clear => true
  | .setEntryMode => true
  | .setDisplayControl => true
  | .setFunction => true
  | .writeNextChar => true
  | .returnHome => true
  | .init _ => true
  | .showScore _ => true
  | .showMessage src _ => src.all (· != 0x00#8)
  | .clearLcd => true
  | .clearSegments => true
  | .pollLcd => true

/-- An instruction of the block. -/
abbrev WellFormed (i : Instr) : Prop := wellFormed i = true

end Sys2Proof
end

