-- ==== Sys2Proof/Machine/State.lean ====
section
/-! DEFINITION. The state of the display core as plain data (10_state.md), the reasons a step can
stop, and the state after reset. -/

namespace Sys2Proof.Machine

/-- The seven opcodes a queue slot can hold (10_state.md R24, 30_encoding.md R84). `pause` is also
the marker of an empty slot. The 3-bit number 7 is left out (30_encoding.md R87). -/
inductive LcdOp where
  | pause
  | clear
  | setEntryMode
  | setDisplayControl
  | setFunction
  | writeNextChar
  | returnHome
deriving DecidableEq, Repr, Inhabited

/-- The modes of `ENQUEUE` (30_encoding.md R72). Number 3 is left out (30_encoding.md R88). -/
inductive EnqueueMode where
  | immediate
  | hold
  | forceActivate
deriving DecidableEq, Repr

/-- The five output lines (00_scope.md R3, R15). -/
inductive Line where
  | sdi
  | sck
  | rck
  | clr
  | oe
deriving DecidableEq, Repr

/-- One event `SetLine(P, b)` of the wire trace (00_scope.md R15). -/
structure WireEvent where
  line : Line
  level : Level
deriving DecidableEq, Repr

/-- The levels last driven on the five lines (10_state.md R32). -/
structure Pins where
  sdi : Level
  sck : Level
  rck : Level
  clr : Level
  oe  : Level
deriving DecidableEq, Repr, Inhabited

/-- How the last host command ended (10_state.md R33). -/
inductive Status where
  | ok
  | errInvalidDigit
deriving DecidableEq, Repr, Inhabited

/-- A byte memory: the entries that differ from what an unlisted address reads as, by strictly
rising address. -/
abbrev Memory := List Host.Cell

/-- Everything the spec gives the block (10_state.md R41), the chain it drives (10_state.md R37),
its two traces (00_scope.md R15), and two fields of the model's own: the configuration of the
instance (log 1) and the bytes the host has yet to issue (log 3). -/
structure State where
  /-- The configuration of the instance; no step changes it (10_state.md R38; log 1). -/
  cfg : Config
  /-- The bytes of the commands the host has yet to issue, first first (log 3, log 4). -/
  host : List Byte
  /-- The line assignments of the first `INIT`, fixed from then on (10_state.md R38), which no rule
  reads (00_scope.md R11; log 9). -/
  pins : PinMap
  /-- Whether the five lines are outputs (10_state.md R32; log 22). -/
  driven : Bool
  /-- The levels last driven on the lines (10_state.md R32). -/
  pin : Pins
  /-- The register image `x[0..L-1]` (10_state.md R20). -/
  x : List Byte
  /-- The LCD opcode queue `q[0..19]` (10_state.md R24). -/
  q : Vector LcdOp qcap
  /-- The flag that lets a drain step act (10_state.md R26). -/
  armed : Bool
  /-- The message buffer `msg[0..49]` (10_state.md R27; log 11). -/
  msg : Memory
  /-- The cursor (10_state.md R29). -/
  messageProgress : Nat
  /-- The visible length (10_state.md R30). -/
  messageLength : Nat
  /-- How the last host command ended (10_state.md R33). -/
  status : Status
  /-- Set when an `ENQUEUE` finds no empty slot (10_state.md R34; log 7). -/
  ovf : Bool
  /-- Whether an `INIT` has been executed (10_state.md R35). -/
  initialized : Bool
  /-- The suspension of the interrupt domain (10_state.md R36; log 10). -/
  irqHold : Bool
  /-- The shift cells of the chain, cell 0 first (20_memory.md R57; log 8, log 14). -/
  sr : List Level
  /-- The latched outputs of the chain, output 0 first (20_memory.md R57; log 8, log 14). -/
  out : List Level
  /-- The wire trace, oldest event first (00_scope.md R15; log 13). -/
  wire : List WireEvent
  /-- The frame trace, oldest frame first (00_scope.md R15; log 13). -/
  frames : List (List Byte)
deriving DecidableEq, Repr, Inhabited

/-- Why the machine stops with a fault. -/
inductive Fault where
  /-- `WRITE_NEXT_CHAR` reads the message buffer at a position outside 0..49. Safe. The spec asks
  for it where `LEN_COUNTS_GAP = 1` (70_reset_and_hazards.md R266, 93_implementation_defined.md
  U6); with the spec's own reading no run reaches it (10_state.md R29; log 11). -/
  | messageOutOfRange (position : Nat)
deriving DecidableEq, Repr

/-- Why a command has no meaning. -/
inductive Refusal where
  /-- An instruction of the opcode table without a meaning; no arm of this model answers it.
  Safe. -/
  | notModelled (mnemonic : String)
  /-- A command other than `INIT` while `initialized = 0` (44_facade.md R204). Safe. -/
  | notInitialized
  /-- Command code 6 or 7 on the host channel (30_encoding.md R88). Safe. -/
  | reservedCommand (code : Nat)
  /-- The bytes on the host channel end inside a command (log 6). Safe. -/
  | incompleteCommand
deriving DecidableEq, Repr

/-- An empty queue: every slot holds `PAUSE` (10_state.md R24). -/
abbrev emptyQueue : Vector LcdOp qcap := Vector.replicate qcap .pause

/-- The queue after `INIT`: the power-on sequence in the first four slots (44_facade.md R200). -/
abbrev powerOnQueue : Vector LcdOp qcap :=
  #v[.clear, .setEntryMode, .setDisplayControl, .setFunction,
     .pause, .pause, .pause, .pause, .pause, .pause, .pause, .pause,
     .pause, .pause, .pause, .pause, .pause, .pause, .pause, .pause]

/-- The line assignments `State.reset` names. DESIGN CHOICE (unsafe): the spec gives none, log 9. -/
abbrev resetPins : PinMap := ⟨0#8, 1#8, 2#8, 3#8, 4#8⟩

/-- The idle levels of 40_bus.md R100. -/
abbrev idlePins (c : Config) : Pins := ⟨false, false, false, c.clrLevel, c.oeLevel⟩

/-- The five events of `BUS_INIT` in their order (40_bus.md R100). -/
abbrev busInitEvents (c : Config) : List WireEvent :=
  [⟨.sdi, false⟩, ⟨.sck, false⟩, ⟨.rck, false⟩, ⟨.clr, c.clrLevel⟩, ⟨.oe, c.oeLevel⟩]

/-- The machine right after reset, which is right after `INIT` (70_reset_and_hazards.md R250,
10_state.md R41; log 2). The cells and outputs of the chain have no value in the spec:
DESIGN CHOICE 0 (unsafe), log 8. -/
def State.reset : State where
  cfg := Config.platform
  host := []
  pins := resetPins
  driven := true
  pin := idlePins Config.platform
  x := List.replicate Config.platform.imageLen 0x00#8
  q := powerOnQueue
  armed := true
  msg := []
  messageProgress := 0
  messageLength := 0
  status := .ok
  ovf := false
  initialized := true
  irqHold := false
  sr := List.replicate (8 * Config.platform.imageLen) false
  out := List.replicate (8 * Config.platform.imageLen) false
  wire := busInitEvents Config.platform
  frames := []

end Sys2Proof.Machine
end

