-- ==== Sys2Proof/Machine/Ops.lean ====
section
/-! DEFINITION. The named operations over the message buffer, the register image, the queue and the
flags, and the report of the one error (60_exceptions.md R220). Every read and write of the state
goes through one of them or through a family's own operation. -/

namespace Sys2Proof.Machine

/-! ## Memory -/

/-- What a position that is not listed reads as: 0x00, its value after `INIT` (10_state.md R27). -/
abbrev unlistedByte : Byte := 0x00#8

/-- The byte at an address. -/
def Memory.read : Memory → Nat → Byte
  | [], _ => unlistedByte
  | (a, v) :: m, p => if a = p then v else Memory.read m p

/-- Storing a byte, keeping the addresses rising and listing no byte that reads as unlisted. -/
def Memory.write : Memory → Nat → Byte → Memory
  | [], p, b => if b = unlistedByte then [] else [(p, b)]
  | (a, v) :: m, p, b =>
    if p < a then (if b = unlistedByte then (a, v) :: m else (p, b) :: (a, v) :: m)
    else if p = a then (if b = unlistedByte then m else (p, b) :: m)
    else (a, v) :: Memory.write m p b

/-- The one form a memory has: addresses strictly rising and inside the buffer, and no entry equal
to what an unlisted address reads as. -/
abbrev Memory.wf (m : Memory) : Prop :=
  m.Pairwise (fun c d => c.1 < d.1) ∧ ∀ c ∈ m, c.2 ≠ unlistedByte ∧ c.1 < msgcap

/-- `MemWrite(p, 1, b)` for every position of a list (00_scope.md R14). -/
def Memory.fill (b : Byte) : List Nat → Memory → Memory
  | [], m => m
  | p :: ps, m => Memory.fill b ps (Memory.write m p b)

/-- `MemRead(p, 1)`: the byte at a position 0..49, none outside (00_scope.md R14, 20_memory.md
R60). -/
def State.memRead (s : State) (p : Nat) : Option Byte :=
  if p < msgcap then some (s.msg.read p) else none

/-! ## Register image -/

/-- `x[i]` (00_scope.md R14). -/
def State.getReg (s : State) (i : Nat) : Byte := s.x.getD i 0x00#8

/-- `x[i] <- v` (00_scope.md R14). -/
def State.setReg (s : State) (i : Nat) (v : Byte) : State := { s with x := s.x.set i v }

/-- `x[i] <- pat[0]`, `x[i+1] <- pat[1]` and so on: the loops of 41_segment_encoder.md R127 and
R129. -/
def State.setRegs (s : State) (i : Nat) : List Byte → State
  | [] => s
  | b :: bs => (s.setReg i b).setRegs (i + 1) bs

/-! ## Queue -/

/-- The least index whose slot is empty (42_lcd_queue.md R140, R141). -/
def firstEmpty (q : Vector LcdOp qcap) : Option (Fin qcap) :=
  (List.finRange qcap).find? fun i => q[i] == .pause

/-- The queue shifted left by one slot, its tail refilled with `PAUSE` (42_lcd_queue.md R152). -/
def shiftQueue (q : Vector LcdOp qcap) : Vector LcdOp qcap :=
  Vector.ofFn fun i : Fin qcap => if h : i.val + 1 < qcap then q[i.val + 1] else .pause

/-- Dequeue (42_lcd_queue.md R152). -/
def State.dequeue (s : State) : State := { s with q := shiftQueue s.q }

/-! ## Flags and sequencing state -/

/-- `status <- v` (10_state.md R33). -/
def State.setStatus (s : State) (v : Status) : State := { s with status := v }

/-- `irqHold <- b` (42_lcd_queue.md R170). -/
def State.setIrqHold (s : State) (b : Bool) : State := { s with irqHold := b }

/-- `armed <- 0`, which only `PAUSE` does (42_lcd_queue.md R159, R172). -/
def State.disarm (s : State) : State := { s with armed := false }

/-- `messageProgress <- messageProgress + 1` (42_lcd_queue.md R165). -/
def State.advanceCursor (s : State) : State :=
  { s with messageProgress := s.messageProgress + 1 }

/-! ## The error -/

/-- The one error of the block (60_exceptions.md R220). The digit is carried for the model's
benefit only; the block records no value. -/
inductive SegError where
  | invalidDigit (d : Nat)
deriving DecidableEq, Repr

/-- `raise InvalidDigit(d)`: the command ends with nothing written but `status`
(60_exceptions.md R220, R231). There is no trap entry and no return. -/
def State.raiseError (s : State) : SegError → State
  | .invalidDigit _ => s.setStatus .errInvalidDigit

/-- A host command other than `INIT` runs only after an `INIT` (44_facade.md R204). -/
def whenInitialized (s : State) (run : Host.Outcome State Fault Refusal) :
    Host.Outcome State Fault Refusal :=
  if s.initialized then run else .refused .notInitialized

end Sys2Proof.Machine
end

