-- ==== Sys2Proof/Machine/Operands.lean ====
section
/-! DEFINITION. Operand assembly (30_encoding.md R80 to R83, R89, R91, R92): the digits of a score and
their patterns, the codes of a source message and their positions, the two bytes of a character,
the control words, and the values of the enable strobe. -/

namespace Sys2Proof.Machine

/-! ## Score to patterns (41_segment_encoder.md) -/

/-- The wraparound loop of 41_segment_encoder.md R121 with `m = 10^N`; the first argument bounds
the number of passes (log 23). -/
def wrapLoop : Nat → Nat → Nat → Nat
  | 0, _, w => w
  | fuel + 1, m, w => if w > m - 1 then wrapLoop fuel m (w - m) else w

/-- `w`, the score after wraparound (41_segment_encoder.md R121). -/
def wrapScore (n score : Nat) : Nat := wrapLoop score (10 ^ n) score

/-- The `n` digits of a value, the most significant first (41_segment_encoder.md R122). -/
def digitsOf : Nat → Nat → List Nat
  | 0, _ => []
  | n + 1, v => v / 10 ^ n :: digitsOf n (v % 10 ^ n)

/-- `z`, the length of the run of leading zeros that never reaches the last position
(41_segment_encoder.md R123). -/
def blankCount : List Nat → Nat
  | [] => 0
  | [_] => 0
  | d :: e :: ds => if d = 0 then blankCount (e :: ds) + 1 else 0

/-- `LutOrError` (41_segment_encoder.md R126). -/
def lutOrError (c : Config) (d : Nat) : Except SegError Byte :=
  if h : d < 10 then .ok c.segLut[d] else .error (.invalidDigit d)

/-- The pattern of each position: `SEG_BLANK` for the first `z`, the glyph of its digit for the
rest (41_segment_encoder.md R125). -/
def renderDigits (c : Config) : Nat → List Nat → Except SegError (List Byte)
  | _, [] => .ok []
  | z + 1, _ :: ds =>
    match renderDigits c z ds with
    | .ok bs => .ok (c.segBlank :: bs)
    | .error e => .error e
  | 0, d :: ds =>
    match lutOrError c d with
    | .error e => .error e
    | .ok b =>
      match renderDigits c 0 ds with
      | .ok bs => .ok (b :: bs)
      | .error e => .error e

/-- The patterns of a digit list, however it was supplied (41_segment_encoder.md R124, R126). -/
def patternOf (c : Config) (ds : List Nat) : Except SegError (List Byte) :=
  renderDigits c (blankCount ds) ds

/-- The digits of a score (41_segment_encoder.md R121, R122). -/
def scoreDigits (c : Config) (score : Score) : List Nat :=
  digitsOf c.nseg (wrapScore c.nseg score.toNat)

/-- `SEG_ENCODE` (41_segment_encoder.md R125). -/
def segEncode (c : Config) (score : Score) : Except SegError (List Byte) :=
  patternOf c (scoreDigits c score)

/-! ## Source message to codes (30_encoding.md R92, 43_text_encoder.md R183) -/

/-- `Decode` at the front of the remaining source bytes: the code and the number of bytes used,
none at the terminator or at the end of the bytes, where the terminator is implied (log 20). -/
def decodeChar (c : Config) : List Byte → Option (Byte × Nat)
  | [] => none
  | b :: bs =>
    if b = 0x00#8 then none
    else if c.seqA.isPrefixOf (b :: bs) then some (c.glyphA, c.seqA.length)
    else if c.seqO.isPrefixOf (b :: bs) then some (c.glyphO, c.seqO.length)
    else if 32 ≤ b.toNat ∧ b.toNat ≤ 127 then some (b, 1)
    else some (blankCode, 1)

/-- `WinPos(n)`, the position of the `n`-th character (20_memory.md R52, 30_encoding.md R82). -/
def winPos (n : Nat) : Nat := if n < 16 then n else n + 24

/-! ## Character split and control words -/

/-- `CW_DATA | (TOP_MASK if c[7] = 1 else 0x00)`, the control byte of a character (30_encoding.md
R81). -/
def charControl (c : Config) (ch : Byte) : Byte :=
  c.cwData ||| (if ch.getLsbD 7 then c.topMask else 0x00#8)

/-- `PlaceLow7(c[6:0])`, the data byte of a character (30_encoding.md R81). -/
def charData (c : Config) (ch : Byte) : Byte :=
  c.placeLow7[(ch.extractLsb' 0 7).toNat]'(by
    have := (ch.extractLsb' 0 7).isLt
    omega)

/-- The control byte with the enable bit clear (30_encoding.md R83). -/
def enableLow (c : Config) (v : Byte) : Byte := v &&& ~~~c.enMask

/-- The control byte with the enable bit set (30_encoding.md R83). -/
def enableHigh (c : Config) (v : Byte) : Byte := v ||| c.enMask

/-! ## Bits of a byte -/

/-- The bits of a byte in the order the wire carries them, bit 0 first (20_memory.md R54). -/
def byteBits (v : Byte) : List Level := (List.range 8).map fun i => v.getLsbD i

end Sys2Proof.Machine
end

