-- ==== Sys2Proof/Machine/Bus.lean ====
section
/-! DEFINITION. The ShiftRegisterBus (40_bus.md): `SET_LINE`, `PULSE`, `REFRESH`, `BUS_INIT`, and the
chain that observes the lines (20_memory.md R57). -/

namespace Sys2Proof.Machine

/-- The levels after one line was driven (00_scope.md R15). -/
def Pins.drive (p : Pins) : Line → Level → Pins
  | .sdi, b => { p with sdi := b }
  | .sck, b => { p with sck := b }
  | .rck, b => { p with rck := b }
  | .clr, b => { p with clr := b }
  | .oe, b => { p with oe := b }

/-- The shift cells after an event: a rising edge of SCK moves every cell one place on and takes
SDI into cell 0 (20_memory.md R57; log 14). -/
def cellsAfter (p : Pins) (sr : List Level) : Line → Level → List Level
  | .sck, true => if p.sck then sr else (p.sdi :: sr).take sr.length
  | _, _ => sr

/-- The latched outputs after an event: a rising edge of RCK copies the cells
(20_memory.md R57; log 14). -/
def outputsAfter (p : Pins) (sr out : List Level) : Line → Level → List Level
  | .rck, true => if p.rck then out else sr
  | _, _ => out

/-- `SET_LINE(P, b)`: the event is appended to the wire trace, the line takes the level, and the
chain observes it (40_bus.md R102, 20_memory.md R57). -/
def State.setLine (s : State) (P : Line) (b : Level) : State :=
  { s with
    wire := s.wire ++ [⟨P, b⟩]
    pin := s.pin.drive P b
    sr := cellsAfter s.pin s.sr P b
    out := outputsAfter s.pin s.sr s.out P b }

/-- `PULSE(P)`: one rising edge, then one falling edge (40_bus.md R103). -/
def State.pulse (s : State) (P : Line) : State := (s.setLine P true).setLine P false

/-- Each bit driven on SDI and followed by one SCK pulse (40_bus.md R104). -/
def State.shiftBits (s : State) : List Level → State
  | [] => s
  | b :: bs => ((s.setLine .sdi b).pulse .sck).shiftBits bs

/-- The bits of an image in the order sent: highest index first, each byte bit 0 first
(20_memory.md R54). -/
def imageBits (x : List Byte) : List Level := x.reverse.flatMap byteBits

/-- The frame trace gains a copy of the image (00_scope.md R15). -/
def State.recordFrame (s : State) : State := { s with frames := s.frames ++ [s.x] }

/-- `REFRESH()` (40_bus.md R104). -/
def State.refresh (s : State) : State :=
  ((s.shiftBits (imageBits s.x)).pulse .rck).recordFrame

/-- The five lines become outputs (40_bus.md R100; log 22). The first `INIT` of the instance fixes
the assignment for its life (10_state.md R32, R38; log 9). -/
def State.makeOutputs (s : State) (pins : PinMap) : State :=
  { s with pins := if s.initialized then s.pins else pins, driven := true }

/-- `BUS_INIT(pins)` (40_bus.md R100). -/
def State.busInit (s : State) (pins : PinMap) : State :=
  (((((s.makeOutputs pins).setLine .sdi false).setLine .sck false).setLine .rck false).setLine
    .clr s.cfg.clrLevel).setLine .oe s.cfg.oeLevel

end Sys2Proof.Machine
end

