-- ==== Sys2Proof/Machine/Flags.lean ====
section
/-! DEFINITION. The rules of the flags: arming by mode (42_lcd_queue.md R142) and the overflow of the
queue (42_lcd_queue.md R143). -/

namespace Sys2Proof.Machine

/-- `armed` after an entry was placed at slot `i`: `Immediate` arms only at the front, `Hold`
never, `ForceActivate` always, and no mode disarms (42_lcd_queue.md R142). -/
def armAfter : EnqueueMode → Nat → Bool → Bool
  | .immediate, i, armed => armed || i == 0
  | .hold, _, armed => armed
  | .forceActivate, _, _ => true

/-- Queue full: the opcode is dropped and `ovf` is set, no slot and not `armed` changes
(42_lcd_queue.md R143; log 7). -/
def State.markOverflow (s : State) : State := { s with ovf := true }

end Sys2Proof.Machine
end

