-- ==== Sys2Proof/Machine/LcdQueue.lean ====
section
/-! DEFINITION. The LCDCommandQueue (42_lcd_queue.md): `ENQUEUE`, `PULSE_ENABLE`, the seven LCD opcodes,
`DRAIN_ONE`, and the host commands `POLL_LCD` and `CLEAR_LCD`. -/

namespace Sys2Proof.Machine

/-- `ENQUEUE(op, mode)` (42_lcd_queue.md R140). -/
def State.enqueue (s : State) (op : LcdOp) (mode : EnqueueMode) : State :=
  match firstEmpty s.q with
  | none => s.markOverflow
  | some i => { s with q := s.q.set i.val op i.isLt, armed := armAfter mode i.val s.armed }

/-- `PULSE_ENABLE()`: the enable bit low, high, low, with a refresh at each step
(42_lcd_queue.md R155). -/
def State.pulseEnable (s : State) : State :=
  let s1 := (s.setReg s.cfg.ctrl (enableLow s.cfg (s.getReg s.cfg.ctrl))).refresh
  let s2 := (s1.setReg s1.cfg.ctrl (enableHigh s1.cfg (s1.getReg s1.cfg.ctrl))).refresh
  (s2.setReg s2.cfg.ctrl (enableLow s2.cfg (s2.getReg s2.cfg.ctrl))).refresh

/-- `ExecInstr`: the control word into the control byte, then `PULSE_ENABLE` (42_lcd_queue.md
R157). -/
def State.sendControl (s : State) (word : Byte) : State :=
  (s.setReg s.cfg.ctrl word).pulseEnable

/-- The sending of one character: its control byte, its data byte, `PULSE_ENABLE`, and the cursor
one on (42_lcd_queue.md R165). -/
def State.sendChar (s : State) (ch : Byte) : State :=
  (((s.setReg s.cfg.ctrl (charControl s.cfg ch)).setReg s.cfg.data
    (charData s.cfg ch)).pulseEnable).advanceCursor

/-! ## The seven opcodes, each as the drain step executes it (log 17) -/

/-- `PAUSE` (42_lcd_queue.md R159). -/
def execPause (s : State) : Host.Outcome State Fault Refusal := .next s.disarm

/-- `CLEAR` (42_lcd_queue.md R160). -/
def execClear (s : State) : Host.Outcome State Fault Refusal :=
  .next (s.sendControl s.cfg.cwClear)

/-- `SET_ENTRY_MODE` (42_lcd_queue.md R161). -/
def execSetEntryMode (s : State) : Host.Outcome State Fault Refusal :=
  .next (s.sendControl s.cfg.cwSetEntryMode)

/-- `SET_DISPLAY_CONTROL` (42_lcd_queue.md R162). -/
def execSetDisplayControl (s : State) : Host.Outcome State Fault Refusal :=
  .next (s.sendControl s.cfg.cwSetDisplayControl)

/-- `SET_FUNCTION` (42_lcd_queue.md R163). -/
def execSetFunction (s : State) : Host.Outcome State Fault Refusal :=
  .next (s.sendControl s.cfg.cwSetFunction)

/-- `RETURN_HOME` (42_lcd_queue.md R164). -/
def execReturnHome (s : State) : Host.Outcome State Fault Refusal :=
  .next (s.sendControl s.cfg.cwReturnHome)

/-- `WRITE_NEXT_CHAR` (42_lcd_queue.md R165). The read is in range on every run of the spec's
reading (10_state.md R29); a miss faults (93_implementation_defined.md U6; log 11). -/
def execWriteNextChar (s : State) : Host.Outcome State Fault Refusal :=
  match s.memRead s.messageProgress with
  | some ch => .next (s.sendChar ch)
  | none => .fault (.messageOutOfRange s.messageProgress)

/-- `execute op` of the drain step (42_lcd_queue.md R150). -/
def executeOp : LcdOp → State → Host.Outcome State Fault Refusal
  | .pause, s => execPause s
  | .clear, s => execClear s
  | .setEntryMode, s => execSetEntryMode s
  | .setDisplayControl, s => execSetDisplayControl s
  | .setFunction, s => execSetFunction s
  | .writeNextChar, s => execWriteNextChar s
  | .returnHome, s => execReturnHome s

/-- After an executed opcode: a `WRITE_NEXT_CHAR` whose cursor has not reached the visible length
stays at the front (42_lcd_queue.md R154), anything else is dequeued (42_lcd_queue.md R152). -/
def State.settleQueue (s : State) (op : LcdOp) : State :=
  if op = .writeNextChar ∧ s.messageProgress < s.messageLength then s else s.dequeue

/-- `DRAIN_ONE()` (42_lcd_queue.md R150). -/
def drainOne (s : State) : Host.Outcome State Fault Refusal :=
  if s.armed then
    match executeOp s.q[0] s with
    | .next t => .next (t.settleQueue s.q[0])
    | .fault r => .fault r
    | .refused r => .refused r
  else .next s

/-! ## The host commands -/

/-- `POLL_LCD` (42_lcd_queue.md R170; log 10). -/
def execPollLcd (s : State) : Host.Outcome State Fault Refusal :=
  whenInitialized s <|
    match drainOne (s.setIrqHold true) with
    | .next t => .next ((t.setIrqHold false).setStatus .ok)
    | .fault r => .fault r
    | .refused r => .refused r

/-- `CLEAR_LCD` (42_lcd_queue.md R171). -/
def execClearLcd (s : State) : Host.Outcome State Fault Refusal :=
  whenInitialized s (.next ((s.enqueue .clear .immediate).setStatus .ok))

end Sys2Proof.Machine
end

