-- ==== Sys2Proof/Machine/Facade.lean ====
section
/-! DEFINITION. The Display facade (44_facade.md): the host command `INIT`, the reset of the block. -/

namespace Sys2Proof.Machine

/-- `ZeroAllState()` (44_facade.md R201). `irqHold` is 0 after `INIT` (10_state.md R41; log 10). -/
def State.zeroAll (s : State) : State :=
  { s with
    x := List.replicate s.cfg.imageLen 0x00#8
    q := emptyQueue
    armed := false
    msg := []
    messageProgress := 0
    messageLength := 0
    ovf := false
    irqHold := false }

/-- `initialized <- 1` (10_state.md R35). -/
def State.markInitialized (s : State) : State := { s with initialized := true }

/-- `INIT pins` (44_facade.md R200). -/
def execInit (pins : PinMap) (s : State) : Host.Outcome State Fault Refusal :=
  .next <| State.setStatus (v := .ok) <| State.markInitialized <|
    (((((s.busInit pins).zeroAll.enqueue .clear .hold).enqueue .setEntryMode .hold).enqueue
      .setDisplayControl .hold).enqueue .setFunction .forceActivate)

end Sys2Proof.Machine
end

