-- ==== Sys2Proof/Machine/Segments.lean ====
section
/-! DEFINITION. The SegmentEncoder's host commands (41_segment_encoder.md): `SHOW_SCORE` and
`CLEAR_SEGMENTS`. -/

namespace Sys2Proof.Machine

/-- The segment bytes written from entry 0 on, one refresh, `status <- OK`: the common end of
41_segment_encoder.md R127 and R129. -/
def State.showPattern (s : State) (pat : List Byte) : State :=
  ((s.setRegs 0 pat).refresh).setStatus .ok

/-- `SHOW_SCORE` from its digit list on. On an invalid digit nothing is written
(41_segment_encoder.md R126, R127). -/
def State.showDigits (s : State) (ds : List Nat) : State :=
  match patternOf s.cfg ds with
  | .ok pat => s.showPattern pat
  | .error e => s.raiseError e

/-- `SHOW_SCORE score` (41_segment_encoder.md R127). -/
def execShowScore (score : Score) (s : State) : Host.Outcome State Fault Refusal :=
  whenInitialized s (.next (s.showDigits (scoreDigits s.cfg score)))

/-- `CLEAR_SEGMENTS` (41_segment_encoder.md R129; log 16). -/
def execClearSegments (s : State) : Host.Outcome State Fault Refusal :=
  whenInitialized s (.next (s.showPattern (List.replicate s.cfg.nseg s.cfg.segBlank)))

end Sys2Proof.Machine
end

