-- ==== Sys2Proof/Machine/Text.lean ====
section
/-! DEFINITION. The TextEncoder (43_text_encoder.md): `TEXT_ENCODE` and the host command
`SHOW_MESSAGE`. -/

namespace Sys2Proof.Machine

/-- The copy loop of 43_text_encoder.md R180: `room` positions are left of the window, `n` are
written. It answers the buffer and the number of positions written (R182). -/
def copyLoop (c : Config) : Nat → List Byte → Nat → Memory → Memory × Nat
  | 0, _, n, m => (m, n)
  | room + 1, src, n, m =>
    match decodeChar c src with
    | none => (m, n)
    | some (g, k) => copyLoop c room (src.drop k) (n + 1) (m.write (winPos n) g)

/-- The scramble: bit 7 forced on at each position of a list (43_text_encoder.md R187). -/
def scrambleAt : List Nat → Memory → Memory
  | [], m => m
  | p :: ps, m => scrambleAt ps (m.write p (m.read p ||| scrambleBit))

/-- The positions 0, 2, ..., 24 (43_text_encoder.md R187). -/
def scramblePositions : List Nat := (List.range 13).map (2 * ·)

/-- The gap positions 16 to 39 (20_memory.md R52). -/
def gapPositions : List Nat := List.range' 16 24

/-- `messageLength` for `n` positions written: `n` (43_text_encoder.md R185), or, where the
configuration counts the gap, the last written position plus one (70_reset_and_hazards.md R266;
log 12). -/
def visibleLength (c : Config) (n : Nat) : Nat :=
  if c.lenCountsGap then (if n = 0 then 0 else winPos (n - 1) + 1) else n

/-- The buffer after `TEXT_ENCODE` before the scramble, and the number of positions written
(43_text_encoder.md R180). -/
def encodeBuffer (c : Config) (src : List Byte) (m : Memory) : Memory × Nat :=
  let r := copyLoop c visMax src 0 (m.fill fillCode (List.range msgcap))
  (r.1.fill blankCode gapPositions, r.2)

/-- `TEXT_ENCODE(src, scramble)` (43_text_encoder.md R180). -/
def State.textEncode (s : State) (src : List Byte) (scramble : Bool) : State :=
  let r := encodeBuffer s.cfg src s.msg
  { s with
    msg := if scramble then scrambleAt scramblePositions r.1 else r.1
    messageProgress := 0
    messageLength := visibleLength s.cfg r.2 }

/-- `SHOW_MESSAGE src, highScore` (43_text_encoder.md R190). -/
def execShowMessage (src : List Byte) (highScore : Bool) (s : State) :
    Host.Outcome State Fault Refusal :=
  whenInitialized s <| .next <|
    ((((s.textEncode src highScore).enqueue .clear .immediate).enqueue .returnHome .hold).enqueue
      .writeNextChar .forceActivate).setStatus .ok

end Sys2Proof.Machine
end

