-- ==== Sys2Proof/Machine/Dispatch.lean ====
section
/-! DEFINITION. The meaning of each instruction, one arm for each constructor of `Instr`. -/

namespace Sys2Proof.Machine

def exec (i : Instr) (s : State) : Host.Outcome State Fault Refusal :=
  match i with
  | .pause => Sys2Proof.Machine.execPause s
  | .clear => Sys2Proof.Machine.execClear s
  | .setEntryMode => Sys2Proof.Machine.execSetEntryMode s
  | .setDisplayControl => Sys2Proof.Machine.execSetDisplayControl s
  | .setFunction => Sys2Proof.Machine.execSetFunction s
  | .writeNextChar => Sys2Proof.Machine.execWriteNextChar s
  | .returnHome => Sys2Proof.Machine.execReturnHome s
  | .init pins => Sys2Proof.Machine.execInit pins s
  | .showScore score => Sys2Proof.Machine.execShowScore score s
  | .showMessage src highScore => Sys2Proof.Machine.execShowMessage src highScore s
  | .clearLcd => Sys2Proof.Machine.execClearLcd s
  | .clearSegments => Sys2Proof.Machine.execClearSegments s
  | .pollLcd => Sys2Proof.Machine.execPollLcd s

end Sys2Proof.Machine
end

