-- ==== Sys2Proof/Decode.lean ====
section
/-! DEFINITION. The decoder of the two formats (30_encoding.md R71, R79), total on any bytes and
rejecting by name, and the encoder.

A command of format F-HOST travels as bytes: the 3-bit command code in bits 2:0 of the first byte
(30_encoding.md R79), then its operands. The spec gives the code and leaves open how the operands
travel; the packing is the model's. DESIGN CHOICE (unsafe), log 3: `INIT` takes five bytes, the
lines of SDI, SCK, RCK, CLR, OE; `SHOW_SCORE` two bytes, low byte first; `SHOW_MESSAGE` one byte
whose bit 0 is `highScore`, then the source bytes up to and with the terminator 0x00. -/

namespace Sys2Proof

/-- The two formats whose words are instructions: a queue slot (30_encoding.md R71) and a host
command (30_encoding.md R79). Their 3-bit numbers overlap; where a word stands decides its
format (log 4). -/
inductive Format where
  | fOp
  | fHost
deriving DecidableEq, Repr

/-- Why the decoder rejects bytes. -/
inductive Reject where
  /-- There is no byte to decode. -/
  | noBytes
  /-- Opcode number 7, which is in no opcode set (30_encoding.md R87). -/
  | reservedOpcode
  /-- Host command code 6 or 7, reserved (30_encoding.md R88). -/
  | reservedCommand (code : Nat)
  /-- The operand bytes end before the operand does (log 6). -/
  | truncatedOperand
deriving DecidableEq, Repr

/-- The 3-bit code of a first byte, its bits 2:0 (30_encoding.md R71, R79). -/
def codeOf (b : Byte) : Nat := (b.extractLsb' 0 3).toNat

/-- The null-terminated source string at the front of the bytes, and the bytes after its
terminator (20_memory.md R50(d)). -/
def takeString : List Byte → Option (List Byte × List Byte)
  | [] => none
  | b :: bs =>
    if b = 0x00#8 then some ([], bs)
    else (takeString bs).map fun r => (b :: r.1, r.2)

/-- The operands of `INIT` (log 3). -/
def decodeInit : List Byte → Except Reject (Instr × List Byte)
  | a :: b :: c :: d :: e :: rest => .ok (.init ⟨a, b, c, d, e⟩, rest)
  | _ => .error .truncatedOperand

/-- The operand of `SHOW_SCORE`, low byte first (log 3). -/
def decodeShowScore : List Byte → Except Reject (Instr × List Byte)
  | lo :: hi :: rest => .ok (.showScore (hi ++ lo), rest)
  | _ => .error .truncatedOperand

/-- The operands of `SHOW_MESSAGE` (log 3). -/
def decodeShowMessage : List Byte → Except Reject (Instr × List Byte)
  | flag :: bs =>
    match takeString bs with
    | some (src, rest) => .ok (.showMessage src (flag.getLsbD 0), rest)
    | none => .error .truncatedOperand
  | _ => .error .truncatedOperand

/-- Format F-OP: the opcode map of 30_encoding.md R84. -/
def decodeOp : List Byte → Except Reject (Instr × List Byte)
  | [] => .error .noBytes
  | b :: rest =>
    match codeOf b with
    | 0 => .ok (.pause, rest)
    | 1 => .ok (.clear, rest)
    | 2 => .ok (.setEntryMode, rest)
    | 3 => .ok (.setDisplayControl, rest)
    | 4 => .ok (.setFunction, rest)
    | 5 => .ok (.writeNextChar, rest)
    | 6 => .ok (.returnHome, rest)
    | _ => .error .reservedOpcode

/-- Format F-HOST: the command codes of 30_encoding.md R85; 6 and 7 are reserved (R88). -/
def decodeHost : List Byte → Except Reject (Instr × List Byte)
  | [] => .error .noBytes
  | b :: rest =>
    match codeOf b with
    | 0 => decodeInit rest
    | 1 => decodeShowScore rest
    | 2 => decodeShowMessage rest
    | 3 => .ok (.clearLcd, rest)
    | 4 => .ok (.clearSegments, rest)
    | 5 => .ok (.pollLcd, rest)
    | n => .error (.reservedCommand n)

/-- The instruction at the front of the bytes, read in the given format, and the bytes after it. -/
def decode : Format → List Byte → Except Reject (Instr × List Byte)
  | .fOp, bs => decodeOp bs
  | .fHost, bs => decodeHost bs

/-- The format of an instruction (spec/opcode_table.json). -/
def formatOf : Instr → Format
  | .pause => .fOp
  | .clear => .fOp
  | .setEntryMode => .fOp
  | .setDisplayControl => .fOp
  | .setFunction => .fOp
  | .writeNextChar => .fOp
  | .returnHome => .fOp
  | .init _ => .fHost
  | .showScore _ => .fHost
  | .showMessage _ _ => .fHost
  | .clearLcd => .fHost
  | .clearSegments => .fHost
  | .pollLcd => .fHost

/-- The bytes of an instruction, from the same tables as the decoder (30_encoding.md R84, R85;
log 3). -/
def encode : Instr → List Byte
  | .pause => [0x00#8]
  | .clear => [0x01#8]
  | .setEntryMode => [0x02#8]
  | .setDisplayControl => [0x03#8]
  | .setFunction => [0x04#8]
  | .writeNextChar => [0x05#8]
  | .returnHome => [0x06#8]
  | .init p => [0x00#8, p.sdi, p.sck, p.rck, p.clr, p.oe]
  | .showScore n => [0x01#8, n.extractLsb' 0 8, n.extractLsb' 8 8]
  | .showMessage src hs => 0x02#8 :: (if hs then 0x01#8 else 0x00#8) :: (src ++ [0x00#8])
  | .clearLcd => [0x03#8]
  | .clearSegments => [0x04#8]
  | .pollLcd => [0x05#8]

/-- The `k` lowest bytes of `w`, the least significant first. -/
def bytesOfNat : Nat → Nat → List Byte
  | 0, _ => []
  | k + 1, w => BitVec.ofNat 8 w :: bytesOfNat k (w / 256)

/-- The bytes of a word of spec/opcode_table.json: the `nbits` bits of `w` in whole bytes, then
zeros up to the longest instruction with zero operands (`INIT`, six bytes). -/
def tableBytes (nbits w : Nat) : List Byte :=
  bytesOfNat ((nbits + 7) / 8) (w % 2 ^ nbits) ++ List.replicate 6 0x00#8

/-- The instruction a word of spec/opcode_table.json stands for. The table's two formats share
the numbers 0 to 5 and no bit of the word tells them apart (log 4): the word is read as a host
command, the format the step fetches, and where that format reserves the code it is read as a
queue slot. -/
def decodeTableWord (nbits w : Nat) : Option Instr :=
  match decode .fHost (tableBytes nbits w) with
  | .ok (i, _) => some i
  | .error _ =>
    match decode .fOp (tableBytes nbits w) with
    | .ok (i, _) => some i
    | .error _ => none

end Sys2Proof
end

