-- ==== Sys2Proof/Machine/Fetch.lean ====
section
/-! DEFINITION. Taking the next command off the host channel, and placing an instruction where the
next step runs it (log 3, log 4). -/

namespace Sys2Proof.Machine

/-- What stands at the front of the host channel: nothing (`none`), a command with the state
whose channel starts after it, or bytes that are no command. -/
def fetch (s : State) : Option (Except Reject (Instr × State)) :=
  match s.host with
  | [] => none
  | b :: bs =>
    some <| match decode .fHost (b :: bs) with
      | .ok (i, rest) => .ok (i, { s with host := rest })
      | .error r => .error r

/-- The refusal that answers bytes that are no command (44_facade.md R204, 30_encoding.md R88;
log 6). The host's format has no reserved opcode. -/
def refusalOf : Reject → Refusal
  | .noBytes => .incompleteCommand
  | .reservedOpcode => .incompleteCommand
  | .reservedCommand code => .reservedCommand code
  | .truncatedOperand => .incompleteCommand

/-- The opcode a slot holds to stand for an LCD opcode instruction, none for a host command. -/
def slotOf : Instr → Option LcdOp
  | .pause => some .pause
  | .clear => some .clear
  | .setEntryMode => some .setEntryMode
  | .setDisplayControl => some .setDisplayControl
  | .setFunction => some .setFunction
  | .writeNextChar => some .writeNextChar
  | .returnHome => some .returnHome
  | .init _ => none
  | .showScore _ => none
  | .showMessage _ _ => none
  | .clearLcd => none
  | .clearSegments => none
  | .pollLcd => none

/-- Placing the bytes of an instruction where the next step runs it. A command of the host goes to
the front of the host channel, its own bytes only. An LCD opcode goes into the queue front, with
the queue armed and a `POLL_LCD` at the front of the channel, which executes it. Bytes that are
neither go to the front of the channel as they are (log 4). -/
def State.placeBytes (s : State) (bs : List Byte) : State :=
  match decode .fHost bs with
  | .ok (_, rest) => { s with host := bs.take (bs.length - rest.length) ++ s.host }
  | .error _ =>
    match decode .fOp bs with
    | .ok (i, _) =>
      match slotOf i with
      | some op =>
        { s with host := encode .pollLcd ++ s.host, q := s.q.set 0 op, armed := true }
      | none => { s with host := bs ++ s.host }
    | .error _ => { s with host := bs ++ s.host }

end Sys2Proof.Machine
end

