-- ==== Sys2Proof/Machine/Step.lean ====
section
/-! DEFINITION. One step of the block: one host command run to its end (10_state.md R42, 44_facade.md
R204). -/

namespace Sys2Proof.Machine

/-- One step. With no command issued the block holds its state and its lines (60_exceptions.md
R238; log 5). -/
def step (s : State) : Host.Outcome State Fault Refusal :=
  match fetch s with
  | none => .next s
  | some (.ok (i, t)) => exec i t
  | some (.error r) => .refused (refusalOf r)

/-- The state with a word of spec/opcode_table.json stored where the next step runs it (log 4). -/
def State.withFetchWord (s : State) (nbits w : Nat) : State := s.placeBytes (tableBytes nbits w)

end Sys2Proof.Machine
end

