-- ==== Sys2Proof/Machine/PowerOn.lean ====
section
/-! DEFINITION. The block at power-on, before the first `INIT` (70_reset_and_hazards.md R251): the
middle column of the table of 10_state.md R41. -/

namespace Sys2Proof.Machine

/-- What the block holds at power-on where the spec leaves it unspecified: any values at all. No
proof can see them (10_state.md R41; log 24). -/
opaque State.unspecified : State

/-- `w` entries read by a function of the index. -/
def entries {α : Type} (w : Nat) (f : Nat → α) : List α := (List.range w).map f

/-- A buffer that holds a given byte at each position of a list. -/
def Memory.load (v : Nat → Byte) : List Nat → Memory
  | [] => []
  | p :: ps => Memory.write (Memory.load v ps) p (v p)

/-- A buffer that holds a given byte at each of its positions (10_state.md R27). -/
@[irreducible] def Memory.ofBytes (v : Nat → Byte) : Memory := Memory.load v (List.range msgcap)

/-- Power-on with the unspecified state taken from `u`, in the widths and ranges of 10_state.md R41:
`initialized` and `irqHold` are 0 and the lines are not yet outputs (10_state.md R32, R35, R36).
Both traces are empty and no command is issued (log 24). -/
def State.powerOnFrom (u : State) : State where
  cfg := Config.platform
  host := []
  pins := u.pins
  driven := false
  pin := u.pin
  x := entries Config.platform.imageLen u.getReg
  q := u.q
  armed := u.armed
  msg := Memory.ofBytes u.msg.read
  messageProgress := u.messageProgress % 46
  messageLength := u.messageLength % 27
  status := u.status
  ovf := u.ovf
  initialized := false
  irqHold := false
  sr := entries (8 * Config.platform.imageLen) fun k => u.sr.getD k false
  out := entries (8 * Config.platform.imageLen) fun k => u.out.getD k false
  wire := []
  frames := []

/-- The machine at power-on (70_reset_and_hazards.md R251; log 2, log 24). -/
def State.powerOn : State := State.powerOnFrom State.unspecified

end Sys2Proof.Machine
end

