-- ==== Sys2Proof/Safety.lean ====
section
/-! DEFINITION. The terms the claims use: the shape of a state, the queue as a list, the closed form of
what a refresh sends and leaves in the chain, the frame trace read back from the wire, the
invariant of a command boundary, and the fault mark of a run. -/

namespace Sys2Proof.Machine

/-! ## Shape and lines -/

/-- The lengths the spec fixes and the canonical form of the buffer: the image has `L` entries
(00_scope.md R6), the chain `8*L` cells and `8*L` outputs (20_memory.md R57). -/
structure Shape (s : State) : Prop where
  image : s.x.length = s.cfg.imageLen
  cells : s.sr.length = 8 * s.cfg.imageLen
  outputs : s.out.length = 8 * s.cfg.imageLen
  memory : s.msg.wf

/-- Both clocks at their idle level (40_bus.md R107). -/
abbrev ClocksIdle (s : State) : Prop := s.pin.sck = false ∧ s.pin.rck = false

/-- The level last driven on a line. -/
def lineLevel (p : Pins) : Line → Level
  | .sdi => p.sdi
  | .sck => p.sck
  | .rck => p.rck
  | .clr => p.clr
  | .oe => p.oe

/-! ## The queue -/

/-- The queue holds exactly `c` entries, in its first `c` slots (10_state.md R25(b)). -/
abbrev HasCount (q : Vector LcdOp qcap) (c : Nat) : Prop :=
  c ≤ qcap ∧ ∀ i : Fin qcap, i.val < c ↔ q[i] ≠ .pause

/-- The number of `WRITE_NEXT_CHAR` entries in the queue. -/
def writeEntries (q : Vector LcdOp qcap) : Nat := q.toList.countP (· == .writeNextChar)

/-- The instruction a slot stands for (30_encoding.md R84). -/
def instrOf : LcdOp → Instr
  | .pause => .pause
  | .clear => .clear
  | .setEntryMode => .setEntryMode
  | .setDisplayControl => .setDisplayControl
  | .setFunction => .setFunction
  | .writeNextChar => .writeNextChar
  | .returnHome => .returnHome

/-- `CW(op)`, the control word of an instruction opcode (00_scope.md R9); the two other opcodes
have none. -/
def controlWord (c : Config) : LcdOp → Option Byte
  | .pause => none
  | .clear => some c.cwClear
  | .setEntryMode => some c.cwSetEntryMode
  | .setDisplayControl => some c.cwSetDisplayControl
  | .setFunction => some c.cwSetFunction
  | .writeNextChar => none
  | .returnHome => some c.cwReturnHome

/-! ## What a refresh sends, in closed form -/

/-- Bit `t` of a refresh: `x[r][b]` with `r = L - 1 - (t div 8)` and `b = t mod 8`
(20_memory.md R55). -/
def wireBit (x : List Byte) (t : Nat) : Level :=
  (x.getD (x.length - 1 - t / 8) 0x00#8).getLsbD (t % 8)

/-- The events of one refresh of an image, `24*L + 2` in all (40_bus.md R105). -/
def refreshEvents (x : List Byte) : List WireEvent :=
  (List.range (8 * x.length)).flatMap
    (fun t => [⟨.sdi, wireBit x t⟩, ⟨.sck, true⟩, ⟨.sck, false⟩]) ++
  [⟨.rck, true⟩, ⟨.rck, false⟩]

/-- What the cells of the chain hold after a refresh: cell `8*r + (7 - b)` holds `x[r][b]`
(20_memory.md R58). -/
def chainImage (x : List Byte) : List Level :=
  (List.range (8 * x.length)).map fun k => (x.getD (k / 8) 0x00#8).getLsbD (7 - k % 8)

/-- The state with the image `f` written and sent by one refresh, in closed form: 40_bus.md R104
to R106, 20_memory.md R55 and R58. Everything else is as in `s`. -/
def sendFrame (f : List Byte) (s : State) : State :=
  { s with
    x := f
    wire := s.wire ++ refreshEvents f
    pin := { s.pin with sdi := (f.getD 0 0x00#8).getLsbD 7, sck := false, rck := false }
    sr := chainImage f
    out := chainImage f
    frames := s.frames ++ [f] }

/-- The image with the enable bit of its control byte clear (30_encoding.md R83). -/
def strobeLow (c : Config) (f : List Byte) : List Byte :=
  f.set c.ctrl (f.getD c.ctrl 0x00#8 &&& ~~~c.enMask)

/-- The image with the enable bit of its control byte set (30_encoding.md R83). -/
def strobeHigh (c : Config) (f : List Byte) : List Byte :=
  f.set c.ctrl (f.getD c.ctrl 0x00#8 ||| c.enMask)

/-- The three frames of one enable pulse over an image: low, high, low (42_lcd_queue.md R156). -/
def strobeFrames (c : Config) (f : List Byte) : List (List Byte) :=
  [strobeLow c f, strobeHigh c f, strobeLow c f]

/-- The state with the image `f` written and strobed into the device by one enable pulse
(42_lcd_queue.md R155). -/
def sendStrobe (f : List Byte) (s : State) : State :=
  sendFrame (strobeLow s.cfg f) (sendFrame (strobeHigh s.cfg f) (sendFrame (strobeLow s.cfg f) s))

/-- The image that carries a character: its control byte and its data byte (30_encoding.md R81). -/
def charImage (c : Config) (x : List Byte) (ch : Byte) : List Byte :=
  (x.set c.ctrl (c.cwData ||| (if ch.getLsbD 7 then c.topMask else 0x00#8))).set c.data
    (c.placeLow7.toList.getD (ch.toNat % 128) 0x00#8)

/-- The image that a tick strobes into the device when the front is not `PAUSE`
(42_lcd_queue.md R157, R165). -/
def frontImage (s : State) : List Byte :=
  match controlWord s.cfg s.q[0] with
  | some w => s.x.set s.cfg.ctrl w
  | none => charImage s.cfg s.x (s.msg.read s.messageProgress)

/-! ## Scores and messages, in closed form -/

/-- Digit `i` of a score on `n` positions, position 0 the most significant (30_encoding.md R80). -/
def digitAt (n score i : Nat) : Nat := score % 10 ^ n / 10 ^ (n - 1 - i) % 10

/-- Position `i` is blank: it is not the last, and it and all before it hold 0
(41_segment_encoder.md R123). -/
abbrev BlankAt (n score i : Nat) : Prop := i + 1 < n ∧ ∀ j ≤ i, digitAt n score j = 0

/-- The segment byte of position `i` of a score (41_segment_encoder.md R125). -/
def segmentAt (c : Config) (score i : Nat) : Byte :=
  if BlankAt c.nseg score i then c.segBlank
  else c.segLut.toList.getD (digitAt c.nseg score i) 0x00#8

/-- Reading patterns back through the table: `SEG_BLANK` as a leading zero, every other byte as
the digit whose pattern it is (41_segment_encoder.md R128(c)). -/
def readBack (c : Config) (pat : List Byte) : List (Option Nat) :=
  pat.map fun b => if b = c.segBlank then some 0 else c.segLut.toList.findIdx? (· == b)

/-- The codes a source message decodes to, at most `room` of them (43_text_encoder.md R182). -/
def codesOf (c : Config) : Nat → List Byte → List Byte
  | 0, _ => []
  | room + 1, src =>
    match decodeChar c src with
    | none => []
    | some (g, k) => g :: codesOf c room (src.drop k)

/-- What position `p` of the buffer holds for a list of codes before a scramble: row 1 takes the
codes 0 to 15, row 2 the codes 16 to 25, and every other position 0x00 (20_memory.md R52). -/
def layoutAt (codes : List Byte) (p : Nat) : Byte :=
  if p < 16 then codes.getD p fillCode
  else if 40 ≤ p ∧ p < 50 then codes.getD (p - 24) fillCode
  else blankCode

/-- The scramble of the byte at position `p` (43_text_encoder.md R187). -/
def scrambled (on : Bool) (p : Nat) (b : Byte) : Byte :=
  if on ∧ p % 2 = 0 ∧ p < 25 then b ||| 0x80#8 else b

/-! ## Reading the frame trace back from the wire -/

/-- An observer of the wire: the levels it has seen last, SDI at each rising edge of SCK since the
last rising edge of RCK, and the frames it has cut off (40_bus.md R108). -/
structure Probe where
  sdi : Level
  sck : Level
  rck : Level
  samples : List Level
  frames : List (List Byte)
deriving DecidableEq, Repr

/-- The byte whose bit `b` is `f b`. -/
def byteOfBits (f : Nat → Level) : Byte :=
  BitVec.ofBool (f 7) ++ BitVec.ofBool (f 6) ++ BitVec.ofBool (f 5) ++ BitVec.ofBool (f 4) ++
    BitVec.ofBool (f 3) ++ BitVec.ofBool (f 2) ++ BitVec.ofBool (f 1) ++ BitVec.ofBool (f 0)

/-- The image in the last `8*L` samples: `x[r][b]` is their bit `8*(L-1-r) + b` (40_bus.md R108). -/
def frameOfSamples (len : Nat) (samples : List Level) : List Byte :=
  let bits := samples.drop (samples.length - 8 * len)
  (List.range len).map fun r => byteOfBits fun b => bits.getD (8 * (len - 1 - r) + b) false

/-- One event observed (40_bus.md R108). -/
def Probe.observe (len : Nat) (p : Probe) (e : WireEvent) : Probe :=
  match e.line with
  | .sdi => { p with sdi := e.level }
  | .sck =>
    { p with
      sck := e.level
      samples := if e.level && !p.sck then p.samples ++ [p.sdi] else p.samples }
  | .rck =>
    { p with
      rck := e.level
      samples := if e.level && !p.rck then [] else p.samples
      frames :=
        if e.level && !p.rck then p.frames ++ [frameOfSamples len p.samples] else p.frames }
  | .clr => p
  | .oe => p

/-- What the observer holds after a wire trace, for images of `len` bytes. -/
def probeOf (len : Nat) (w : List WireEvent) : Probe :=
  w.foldl (Probe.observe len) ⟨false, false, false, [], []⟩

/-- The two traces agree (40_bus.md R108), and from the first frame on the outputs of the chain
hold the last frame (20_memory.md R58, R65). -/
structure TraceOk (s : State) : Prop where
  shape : Shape s
  idle : ClocksIdle s
  observed : probeOf s.cfg.imageLen s.wire = ⟨s.pin.sdi, false, false, [], s.frames⟩
  shown : ∀ f, s.frames.getLast? = some f → s.out = chainImage f ∧ s.sr = chainImage f

/-! ## The invariant of a command boundary -/

/-- What holds between two host commands after `INIT`. -/
structure Inv (s : State) : Prop where
  /-- The configuration meets its constraints (00_scope.md R6 to R10). -/
  config : s.cfg.Ok
  /-- The reading of 90_conflicts.md C5 (log 12). -/
  reading : s.cfg.lenCountsGap = false
  /-- 10_state.md R35. -/
  initialized : s.initialized = true
  /-- 10_state.md R20, R31(a), 20_memory.md R57. -/
  shape : Shape s
  /-- 10_state.md R25(b). -/
  queue : ∃ c, HasCount s.q c
  /-- 10_state.md R40. -/
  frontArmed : s.q[0] ≠ .pause → s.armed = true
  /-- 10_state.md R30. -/
  length : s.messageLength ≤ 26
  /-- 10_state.md R29: with it, every read of the buffer is at a position at most 44. -/
  cursor : s.messageProgress + writeEntries s.q ≤ 45
  /-- 10_state.md R39. -/
  enableClear : s.getReg s.cfg.ctrl &&& s.cfg.enMask = 0x00#8
  /-- 10_state.md R32. -/
  clocks : ClocksIdle s
  /-- 10_state.md R32. -/
  levels : s.pin.clr = s.cfg.clrLevel ∧ s.pin.oe = s.cfg.oeLevel ∧ s.driven = true
  /-- 10_state.md R36. -/
  irqHold : s.irqHold = false
  /-- 41_segment_encoder.md R124, 60_exceptions.md R220: the error is unreachable. -/
  status : s.status = .ok

/-- What holds at power-on, before the first `INIT`: no line is an output, `initialized` and
`irqHold` are 0, nothing is on either trace (10_state.md R32, R35, R36, R41,
70_reset_and_hazards.md R251; log 24). What the spec leaves unspecified is left so, in its
width. -/
structure PowerOn (s : State) : Prop where
  undriven : s.driven = false
  uninitialized : s.initialized = false
  irqHold : s.irqHold = false
  shape : Shape s
  wire : s.wire = []
  frames : s.frames = []

/-- The fault mark of a run: an opcode was dropped (93_implementation_defined.md U1; log 7). -/
abbrev Faulted (s : State) : Prop := s.ovf = true

/-! ## Ticks -/

/-- `k` ticks, each a `POLL_LCD` (00_scope.md R19). -/
def ticks : Nat → State → Host.Outcome State Fault Refusal
  | 0, s => .next s
  | k + 1, s =>
    match exec .pollLcd s with
    | .next t => ticks k t
    | .fault r => .fault r
    | .refused r => .refused r

end Sys2Proof.Machine
end

