-- ==== Sys2Proof/Certificates/Slice0/Obligations.lean ====
section
/-! DEFINITION. The statements for the provers. Each docstring names the rule of spec/ it formalises;
where a clause rests on the model's own choice it names the log entry. -/

open Sys2Proof Sys2Proof.Machine

/-! ## Encoding -/

/-- Decoding the encoding of a well-formed instruction, in its format, gives it back and leaves the
bytes after it (30_encoding.md R71, R79; the packing of operands is the model's choice, log 3). -/
def Obligations.DecodeOfEncode : Prop :=
  ∀ (i : Instr) (rest : List Byte), WellFormed i →
    decode (formatOf i) (encode i ++ rest) = .ok (i, rest)

/-- What the decoder answers is a well-formed instruction of the format it was asked for, and it
used at least one byte from the front (30_encoding.md R71, R79; log 3). -/
def Obligations.DecodedIsWellFormed : Prop :=
  ∀ (f : Format) (bs : List Byte) (i : Instr) (rest : List Byte), decode f bs = .ok (i, rest) →
    WellFormed i ∧ formatOf i = f ∧ ∃ used, used ≠ [] ∧ bs = used ++ rest

/-- Words written out from the tables of 30_encoding.md R84 and R85 decode to the instructions they
stand for: a queue slot 101, a queue slot 110, and the commands 001, 010, 101 (operands in the
model's packing, log 3). -/
def Obligations.HandWrittenWordsDecode : Prop :=
  decode .fOp [0b101#8] = .ok (.writeNextChar, []) ∧
  decode .fOp [0b110#8] = .ok (.returnHome, []) ∧
  decode .fHost [0b001#8, 0xD2#8, 0x04#8] = .ok (.showScore 1234#16, []) ∧
  decode .fHost [0b010#8, 0x01#8, 0x48#8, 0x49#8, 0x00#8] =
    .ok (.showMessage [0x48#8, 0x49#8] true, []) ∧
  decode .fHost [0b101#8] = .ok (.pollLcd, [])

/-! ## The step -/

/-- When the bytes at the front of the host channel decode to an instruction, the step is `exec`
of it on the state whose channel starts after its bytes (44_facade.md R204; log 3, log 4). -/
def Obligations.StepRunsDecodedCommand : Prop :=
  ∀ (s : State) (i : Instr) (rest : List Byte), decode .fHost s.host = .ok (i, rest) →
    step s = exec i { s with host := rest }

/-- With no command issued the block holds its state and its lines (60_exceptions.md R238;
log 5). -/
def Obligations.IdleStepHoldsState : Prop :=
  ∀ s : State, s.host = [] → step s = .next s

/-- Command codes 6 and 7 are refused by name (30_encoding.md R88), opcode number 7 is no opcode
(30_encoding.md R87), and bytes that end inside a command are refused (the model's choice,
log 6). -/
def Obligations.BytesThatAreNoCommandAreRefused : Prop :=
  (∀ (s : State) (b : Byte) (rest : List Byte), s.host = b :: rest → 6 ≤ codeOf b →
    step s = .refused (.reservedCommand (codeOf b))) ∧
  (∀ (b : Byte) (rest : List Byte), codeOf b = 7 →
    decode .fOp (b :: rest) = .error .reservedOpcode) ∧
  (∀ s : State, decode .fHost s.host = .error .truncatedOperand →
    step s = .refused .incompleteCommand)

/-! ## INIT and reset -/

/-- `INIT` answers a next state from every state, initialised or not, and its end state is the one
of 44_facade.md R200 and R201: the five events of `BUS_INIT` on the wire, everything zeroed, the
power-on sequence queued. The chain and the frame trace are as before. The assignment of the lines
is the operand's on the first `INIT` and stays for the life of the instance (10_state.md R38;
log 9); the clause on `irqHold` is 10_state.md R41's (log 10). -/
def Obligations.InitFromAnyState : Prop :=
  ∀ (s : State) (p : PinMap), exec (.init p) s = .next { s with
    pins := if s.initialized then s.pins else p
    driven := true
    pin := idlePins s.cfg
    x := List.replicate s.cfg.imageLen 0x00#8
    q := powerOnQueue
    armed := true
    msg := []
    messageProgress := 0
    messageLength := 0
    status := .ok
    ovf := false
    initialized := true
    irqHold := false
    wire := s.wire ++ busInitEvents s.cfg }

/-- While `initialized = 0` every command but `INIT` is refused (44_facade.md R204, 10_state.md
R35). -/
def Obligations.CommandsBeforeInitAreRefused : Prop :=
  ∀ (s : State) (score : Score) (src : List Byte) (highScore : Bool), s.initialized = false →
    exec (.showScore score) s = .refused .notInitialized ∧
    exec (.showMessage src highScore) s = .refused .notInitialized ∧
    exec .clearLcd s = .refused .notInitialized ∧
    exec .clearSegments s = .refused .notInitialized ∧
    exec .pollLcd s = .refused .notInitialized

/-- The initial mode of 70_reset_and_hazards.md R252: the power-on sequence queued, armed, the
interrupt domain not suspended, no error, the lines idle; and the zeroed image, buffer, cursor and
length of 10_state.md R41. -/
def Obligations.ResetIsTheInitialMode : Prop :=
  State.reset.q = powerOnQueue ∧
  State.reset.armed = true ∧
  State.reset.irqHold = false ∧
  State.reset.status = .ok ∧
  State.reset.ovf = false ∧
  State.reset.pin = idlePins State.reset.cfg ∧
  State.reset.initialized = true ∧
  State.reset.x = List.replicate State.reset.cfg.imageLen 0x00#8 ∧
  (∀ p, State.reset.msg.read p = 0x00#8) ∧
  State.reset.messageProgress = 0 ∧
  State.reset.messageLength = 0

/-! ## The bus -/

/-- `SET_LINE(P, b)` appends its event, even where the line already has the level, sets that line's
level and no other's, and writes nothing else of the block (40_bus.md R102). -/
def Obligations.SetLineAppendsItsEvent : Prop :=
  ∀ (s : State) (P : Line) (b : Level),
    (s.setLine P b).wire = s.wire ++ [⟨P, b⟩] ∧
    lineLevel (s.setLine P b).pin P = b ∧
    (∀ Q, Q ≠ P → lineLevel (s.setLine P b).pin Q = lineLevel s.pin Q) ∧
    s.setLine P b = { s with
      wire := (s.setLine P b).wire
      pin := (s.setLine P b).pin
      sr := (s.setLine P b).sr
      out := (s.setLine P b).out }

/-- The receiver model (20_memory.md R57, a decision of the spec, D4): a rising edge of SCK moves
every cell one place on and takes SDI into cell 0, a rising edge of RCK copies the cells to the
outputs, and no other event changes either. -/
def Obligations.ChainActsOnRisingEdges : Prop :=
  (∀ s : State, s.pin.sck = false →
    (s.setLine .sck true).sr.length = s.sr.length ∧
    (∀ k, k + 1 < s.sr.length → (s.setLine .sck true).sr[k + 1]? = s.sr[k]?) ∧
    (0 < s.sr.length → (s.setLine .sck true).sr[0]? = some s.pin.sdi) ∧
    (s.setLine .sck true).out = s.out) ∧
  (∀ s : State, s.pin.rck = false →
    (s.setLine .rck true).out = s.sr ∧ (s.setLine .rck true).sr = s.sr) ∧
  (∀ (s : State) (P : Line) (b : Level),
    ¬(P = .sck ∧ b = true ∧ s.pin.sck = false) → ¬(P = .rck ∧ b = true ∧ s.pin.rck = false) →
    (s.setLine P b).sr = s.sr ∧ (s.setLine P b).out = s.out)

/-- `REFRESH` sends the whole image, highest index first, each byte bit 0 first, one SCK pulse a
bit, then one RCK pulse; the image and every other piece of the block's state are as before
(40_bus.md R104, bit `t` in the closed form of 20_memory.md R55, which the spec marks as derived).
SDI keeps the last bit and both clocks end at 0 (40_bus.md R106, the spec's decision D14;
log 19). -/
def Obligations.RefreshSendsTheImage : Prop :=
  ∀ s : State, s.x ≠ [] →
    s.refresh = { s with
      wire := s.wire ++ refreshEvents s.x
      pin := { s.pin with sdi := (s.x.getD 0 0x00#8).getLsbD 7, sck := false, rck := false }
      sr := s.refresh.sr
      out := s.refresh.out
      frames := s.frames ++ [s.x] }

/-- After a complete refresh every cell and every output of the chain holds its bit of the image,
whatever the cells held before (20_memory.md R58). -/
def Obligations.RefreshFillsTheChain : Prop :=
  ∀ s : State, Shape s → ClocksIdle s →
    s.refresh.sr = chainImage s.x ∧ s.refresh.out = chainImage s.x

/-- One refresh emits `8*L` data events, `8*L` SCK pulses and one RCK pulse, `24*L + 2` events in
all (40_bus.md R105). -/
def Obligations.RefreshEventCounts : Prop :=
  ∀ s : State, ∃ events, s.refresh.wire = s.wire ++ events ∧
    events.length = 24 * s.x.length + 2 ∧
    events.countP (fun e => e.line = .sdi) = 8 * s.x.length ∧
    events.countP (fun e => e.line = .sck ∧ e.level = true) = 8 * s.x.length ∧
    events.countP (fun e => e.line = .sck ∧ e.level = false) = 8 * s.x.length ∧
    events.countP (fun e => e.line = .rck ∧ e.level = true) = 1 ∧
    events.countP (fun e => e.line = .rck ∧ e.level = false) = 1

/-- `PULSE_ENABLE` refreshes three times, with the enable bit clear, set and clear; the image ends
with it clear and nothing else is written (42_lcd_queue.md R155, the chain by 20_memory.md
R58). -/
def Obligations.PulseEnableIsThreeRefreshes : Prop :=
  ∀ s : State, Shape s → ClocksIdle s → s.pulseEnable = sendStrobe s.x s

/-- The three control bytes of an enable pulse, bit by bit: the enable bit is 0, 1, 0 and every
other bit, and every other byte of the image, is kept (30_encoding.md R83, 42_lcd_queue.md
R156). -/
def Obligations.EnablePulseKeepsOtherBits : Prop :=
  ∀ s : State, s.x.length = s.cfg.imageLen →
    ∃ low high : List Byte,
      s.pulseEnable.frames = s.frames ++ [low, high, low] ∧
      low.length = s.x.length ∧ high.length = s.x.length ∧
      (∀ i, i ≠ s.cfg.ctrl → low.getD i 0x00#8 = s.getReg i ∧ high.getD i 0x00#8 = s.getReg i) ∧
      (∀ j, j < 8 →
        (low.getD s.cfg.ctrl 0x00#8).getLsbD j =
          (if j = s.cfg.enBit.val then false else (s.getReg s.cfg.ctrl).getLsbD j) ∧
        (high.getD s.cfg.ctrl 0x00#8).getLsbD j =
          (if j = s.cfg.enBit.val then true else (s.getReg s.cfg.ctrl).getLsbD j))

/-! ## Scores -/

/-- The wraparound loop ends at the remainder by `10^N`, and two scores with one remainder have one
effect, status and wire included (41_segment_encoder.md R121). -/
def Obligations.ScoresWrapAround : Prop :=
  (∀ n score : Nat, wrapScore n score = score % 10 ^ n) ∧
  (∀ (s : State) (a b : Score), a.toNat % 10 ^ s.cfg.nseg = b.toNat % 10 ^ s.cfg.nseg →
    exec (.showScore a) s = exec (.showScore b) s)

/-- The decomposition gives `N` digits, the most significant first, whose weighted sum is the value
(41_segment_encoder.md R122), each 0 to 9 (R124). -/
def Obligations.DigitsArePositional : Prop :=
  ∀ n w : Nat, w < 10 ^ n →
    (digitsOf n w).length = n ∧
    (∀ i, i < n → (digitsOf n w).getD i 0 = w / 10 ^ (n - 1 - i) % 10) ∧
    ((List.range n).map fun i => (digitsOf n w).getD i 0 * 10 ^ (n - 1 - i)).sum = w ∧
    ∀ d ∈ digitsOf n w, d ≤ 9

/-- The run of leading zeros stops before the last position and at the first nonzero digit; its
positions are blank and every position after it shows its digit (41_segment_encoder.md R123,
R125). -/
def Obligations.LeadingZerosAreBlanked : Prop :=
  ∀ (c : Config) (ds : List Nat), ds ≠ [] → (∀ d ∈ ds, d < 10) →
    ∃ pat, patternOf c ds = .ok pat ∧
      pat.length = ds.length ∧
      blankCount ds + 1 ≤ ds.length ∧
      (∀ i, i < blankCount ds → ds.getD i 1 = 0 ∧ pat.getD i 0x00#8 = c.segBlank) ∧
      (blankCount ds + 1 < ds.length → ds.getD (blankCount ds) 0 ≠ 0) ∧
      (∀ i, blankCount ds ≤ i → i < ds.length →
        pat.getD i 0x00#8 = c.segLut.toList.getD (ds.getD i 0) 0x00#8)

/-- `SHOW_SCORE` completes after `INIT` and writes the pattern of each position, in closed form,
sends one frame and reports OK; the LCD bytes in that frame, the queue, the buffer and everything
else are as before (41_segment_encoder.md R127, R125, the chain by 20_memory.md R58). -/
def Obligations.ShowScoreSendsThePattern : Prop :=
  ∀ (s : State) (score : Score), s.initialized = true → Shape s → ClocksIdle s →
    exec (.showScore score) s = .next
      (sendFrame
        ((List.range s.cfg.nseg).map (segmentAt s.cfg score.toNat) ++ s.x.drop s.cfg.nseg)
        { s with status := .ok })

/-- A digit outside 0..9 fails the whole call: the error carries the first such digit, `status`
reports it, and nothing else changes, so there is no refresh; and no score can cause it
(60_exceptions.md R220). -/
def Obligations.InvalidDigitWritesNothing : Prop :=
  (∀ (s : State) (before after : List Nat) (d : Nat), (∀ e ∈ before, e < 10) → 10 ≤ d →
    patternOf s.cfg (before ++ d :: after) = .error (.invalidDigit d) ∧
    s.showDigits (before ++ d :: after) = { s with status := .errInvalidDigit }) ∧
  (∀ (c : Config) (score : Score) (e : SegError), segEncode c score ≠ .error e)

/-- Reading the patterns of a score back through the table gives its digits, and the last position
is never blank (41_segment_encoder.md R128(c), R128(d)). -/
def Obligations.PatternsReadBack : Prop :=
  ∀ (c : Config) (score : Score), c.Ok →
    ∃ pat, segEncode c score = .ok pat ∧
      readBack c pat = (scoreDigits c score).map some ∧
      pat.getLast? ≠ some c.segBlank

/-- `CLEAR_SEGMENTS` completes after `INIT`, writes `SEG_BLANK` to every digit position, sends one
frame and reports OK, and leaves everything else (41_segment_encoder.md R129, the spec's decision
D15; log 16). -/
def Obligations.ClearSegmentsSendsBlanks : Prop :=
  ∀ s : State, s.initialized = true → Shape s → ClocksIdle s →
    exec .clearSegments s = .next
      (sendFrame (List.replicate s.cfg.nseg s.cfg.segBlank ++ s.x.drop s.cfg.nseg)
        { s with status := .ok })

/-! ## Messages -/

/-- The classes of a source byte: a printable byte stands for itself, each special sequence gives
its glyph and uses its whole length, any other nonzero byte gives one blank, and the terminator
ends the message (30_encoding.md R92, R78; the order of tests is the spec's decision D9). -/
def Obligations.SourceBytesByClass : Prop :=
  ∀ (c : Config) (rest : List Byte), c.Ok →
    decodeChar c (c.seqA ++ rest) = some (c.glyphA, c.seqA.length) ∧
    decodeChar c (c.seqO ++ rest) = some (c.glyphO, c.seqO.length) ∧
    (∀ b : Byte, 32 ≤ b.toNat → b.toNat ≤ 127 → decodeChar c (b :: rest) = some (b, 1)) ∧
    (∀ b : Byte, b ≠ 0x00#8 → ¬(32 ≤ b.toNat ∧ b.toNat ≤ 127) →
      ¬c.seqA <+: b :: rest → ¬c.seqO <+: b :: rest → decodeChar c (b :: rest) = some (0x00#8, 1)) ∧
    decodeChar c (0x00#8 :: rest) = none

/-- A message of printable bytes passes through unchanged and is cut at the window
(43_text_encoder.md R182, R183). -/
def Obligations.PrintableTextPassesThrough : Prop :=
  ∀ (c : Config) (src : List Byte), c.Ok → (∀ b ∈ src, 32 ≤ b.toNat ∧ b.toNat ≤ 127) →
    codesOf c visMax src = src.take 26

/-- `SHOW_MESSAGE` completes after `INIT` and replaces the whole buffer: row 1 takes codes 0 to 15,
row 2 codes 16 to 25, every other position is 0x00, and with `highScore` the even positions below
25 have bit 7 forced on; the cursor is 0 and the length counts the codes (43_text_encoder.md R181,
R182, R184, R185, R187). Where the configuration counts the gap, the length of a message that
reaches row 2 is 24 more (70_reset_and_hazards.md R266; log 12). -/
def Obligations.ShowMessageReplacesTheBuffer : Prop :=
  ∀ (s : State) (src : List Byte) (highScore : Bool), s.initialized = true → s.msg.wf →
    ∃ t, exec (.showMessage src highScore) s = .next t ∧
      (∀ p, t.msg.read p = scrambled highScore p (layoutAt (codesOf s.cfg visMax src) p)) ∧
      t.msg.wf ∧
      t.messageProgress = 0 ∧
      (codesOf s.cfg visMax src).length ≤ 26 ∧
      t.messageLength =
        (if s.cfg.lenCountsGap = true ∧ 16 < (codesOf s.cfg visMax src).length
          then (codesOf s.cfg visMax src).length + 24
          else (codesOf s.cfg visMax src).length)

/-- The scramble law: at every even position below 25 the top bit is set and the other seven bits
are those before the scramble, and every other position is equal (43_text_encoder.md R188). -/
def Obligations.ScrambleSetsTopBitsOnly : Prop :=
  ∀ (s : State) (src : List Byte) (p : Nat), s.msg.wf →
    (p % 2 = 0 → p < 25 →
      ((s.textEncode src true).msg.read p).getLsbD 7 = true ∧
      ∀ j, j < 7 → ((s.textEncode src true).msg.read p).getLsbD j =
        ((s.textEncode src false).msg.read p).getLsbD j) ∧
    (¬(p % 2 = 0 ∧ p < 25) →
      (s.textEncode src true).msg.read p = (s.textEncode src false).msg.read p)

/-- `SHOW_MESSAGE` with room for three entries appends `CLEAR`, `RETURN_HOME`, `WRITE_NEXT_CHAR`
behind the entries already queued and arms the queue; the image, the lines, the chain and the
traces are as before (43_text_encoder.md R190). -/
def Obligations.ShowMessageEnqueuesThree : Prop :=
  ∀ (s : State) (src : List Byte) (highScore : Bool) (c : Nat), s.initialized = true →
    HasCount s.q c → c + 3 ≤ qcap →
    ∃ t, exec (.showMessage src highScore) s = .next t ∧
      (∀ i : Fin qcap, t.q[i] =
        if i.val = c then .clear
        else if i.val = c + 1 then .returnHome
        else if i.val = c + 2 then .writeNextChar
        else s.q[i]) ∧
      HasCount t.q (c + 3) ∧
      t = { s with
        msg := t.msg
        messageProgress := t.messageProgress
        messageLength := t.messageLength
        q := t.q
        armed := true
        status := .ok }

/-! ## The queue -/

/-- `ENQUEUE` with room places the entry behind those queued, and `Immediate` arms only at the
front, `Hold` never, `ForceActivate` always; no mode disarms (42_lcd_queue.md R141, R142). -/
def Obligations.EnqueueAppendsAndArmsByMode : Prop :=
  ∀ (s : State) (op : LcdOp) (c : Nat) (h : c < qcap), HasCount s.q c →
    s.enqueue op .immediate =
      { s with q := s.q.set c op h, armed := if c = 0 then true else s.armed } ∧
    s.enqueue op .hold = { s with q := s.q.set c op h } ∧
    s.enqueue op .forceActivate = { s with q := s.q.set c op h, armed := true }

/-- On a full queue the opcode is dropped, no slot and not `armed` changes, and `ovf` is set: by
`ENQUEUE`, by `CLEAR_LCD`, and by `SHOW_MESSAGE`, whose buffer is still replaced (42_lcd_queue.md
R143, the spec's decision D7; log 7). -/
def Obligations.FullQueueDropsEntries : Prop :=
  ∀ s : State, HasCount s.q qcap →
    (∀ (op : LcdOp) (mode : EnqueueMode), s.enqueue op mode = { s with ovf := true }) ∧
    (s.initialized = true →
      exec .clearLcd s = .next { s with ovf := true, status := .ok } ∧
      ∀ (src : List Byte) (highScore : Bool),
        exec (.showMessage src highScore) s =
          .next { s.textEncode src highScore with ovf := true, status := .ok })

/-- `CLEAR_LCD` with room completes after `INIT`: it appends one `CLEAR`, arms the queue if that
entry is the front, reports OK, and changes nothing else (42_lcd_queue.md R171). -/
def Obligations.ClearLcdEnqueuesClear : Prop :=
  ∀ (s : State) (c : Nat) (h : c < qcap), s.initialized = true → HasCount s.q c →
    exec .clearLcd s = .next { s with
      q := s.q.set c .clear h
      armed := if c = 0 then true else s.armed
      status := .ok }

/-- Enqueuing `PAUSE` leaves the queue as it was (42_lcd_queue.md R144). -/
def Obligations.EnqueuePauseKeepsTheQueue : Prop :=
  ∀ (s : State) (mode : EnqueueMode), (s.enqueue .pause mode).q = s.q

/-! ## The opcodes -/

/-- `PAUSE` clears `armed` and has no other effect (42_lcd_queue.md R159). -/
def Obligations.PauseOnlyDisarms : Prop :=
  ∀ s : State, exec .pause s = .next { s with armed := false }

/-- `CLEAR`, `SET_ENTRY_MODE`, `SET_DISPLAY_CONTROL`, `SET_FUNCTION` and `RETURN_HOME` complete:
each writes its control word and strobes it into the device, and leaves the data byte, the segment
bytes, the cursor, the length, `armed`, the buffer and the queue (42_lcd_queue.md R157, R160 to
R164, the chain by 20_memory.md R58). -/
def Obligations.InstructionOpcodesSendTheirWord : Prop :=
  ∀ (s : State) (op : LcdOp) (w : Byte), controlWord s.cfg op = some w → Shape s → ClocksIdle s →
    exec (instrOf op) s = .next (sendStrobe (s.x.set s.cfg.ctrl w) s)

/-- `WRITE_NEXT_CHAR` completes while the cursor is inside the buffer: it splits the character at
the cursor over the control and the data byte, strobes it, and moves the cursor one on; everything
else is as before (42_lcd_queue.md R165, 30_encoding.md R81, the chain by 20_memory.md R58). -/
def Obligations.WriteNextCharSendsTheCharacter : Prop :=
  ∀ s : State, Shape s → ClocksIdle s → s.messageProgress < msgcap →
    exec .writeNextChar s = .next
      { sendStrobe (charImage s.cfg s.x (s.msg.read s.messageProgress)) s with
        messageProgress := s.messageProgress + 1 }

/-- `WRITE_NEXT_CHAR` with the cursor outside the buffer faults (93_implementation_defined.md U6;
the model's reading of it, log 11). -/
def Obligations.WriteNextCharOutsideFaults : Prop :=
  ∀ s : State, msgcap ≤ s.messageProgress →
    exec .writeNextChar s = .fault (.messageOutOfRange s.messageProgress)

/-! ## The drain step and POLL_LCD -/

/-- A drain step on a disarmed queue is a no-op, whatever the queue holds; on an armed empty queue
it executes the `PAUSE` at the front, which disarms and changes nothing else (42_lcd_queue.md
R151). -/
def Obligations.DrainOfDisarmedOrEmptyQueue : Prop :=
  (∀ s : State, s.armed = false → drainOne s = .next s) ∧
  (∀ s : State, s.armed = true → s.q = emptyQueue → drainOne s = .next { s with armed := false })

/-- A tick on a disarmed block completes and changes nothing but `status` (42_lcd_queue.md R170,
R151); the interrupt domain is not suspended after it (log 10). -/
def Obligations.PollOfDisarmedBlock : Prop :=
  ∀ s : State, s.initialized = true → s.armed = false →
    exec .pollLcd s = .next { s with irqHold := false, status := .ok }

/-- A tick on an armed block executes the instruction at the queue front with the interrupt domain
suspended, then dequeues it: slot `i+1` moves to slot `i` and slot 19 becomes `PAUSE`; except that
a `WRITE_NEXT_CHAR` whose cursor is still below the visible length stays (42_lcd_queue.md R152,
R154, R170). -/
def Obligations.PollExecutesTheFront : Prop :=
  ∀ s t : State, s.initialized = true → s.armed = true →
    exec (instrOf s.q[0]) { s with irqHold := true } = .next t →
    ∃ u, exec .pollLcd s = .next u ∧
      u = { t with q := u.q, irqHold := false, status := .ok } ∧
      ∀ i : Fin qcap, u.q[i] =
        if s.q[0] = .writeNextChar ∧ t.messageProgress < t.messageLength then s.q[i]
        else if h : i.val + 1 < qcap then s.q[i.val + 1]
        else .pause

/-- At a command boundary `POLL_LCD` completes. It sends three frames and `72*L + 6` events when an
armed queue has an entry at its front, the enable pulse of that entry's image, and nothing
otherwise; the segment bytes are as before (42_lcd_queue.md R150, R156, 20_memory.md R64,
70_reset_and_hazards.md R274). -/
def Obligations.PollSendsThreeFramesOrNone : Prop :=
  ∀ s : State, Inv s →
    ∃ t, exec .pollLcd s = .next t ∧
      t.x.take s.cfg.nseg = s.x.take s.cfg.nseg ∧
      (s.q[0] ≠ .pause →
        t.frames = s.frames ++ strobeFrames s.cfg (frontImage s) ∧
        t.wire.length = s.wire.length + (72 * s.cfg.imageLen + 6)) ∧
      (s.q[0] = .pause → t.armed = false ∧ t.frames = s.frames ∧ t.wire = s.wire ∧ t.x = s.x)

/-! ## Invariants -/

/-- The invariant of a command boundary holds at reset (10_state.md R41, R25, R39, R40). That reset is
the state after `INIT` is log 2's; that the configuration is legal is log 1's and that it has
`LEN_COUNTS_GAP = 0` is log 12's. -/
def Obligations.ResetMeetsTheInvariant : Prop := Inv State.reset

/-- Every step keeps the invariant of a command boundary: the queue stays contiguous and armed
while it has an entry, the cursor and the length stay in range, the enable bit stays clear between
commands, the lines stay idle, the buffer keeps its form, and no error is reported (10_state.md
R20, R25, R29, R30, R32, R36, R39, R40). -/
def Obligations.StepKeepsTheInvariant : Prop :=
  ∀ s t : State, Inv s → step s = .next t → Inv t

/-- `INIT` establishes the invariant from any state of the instance, initialised or not
(10_state.md R41). -/
def Obligations.InitEstablishesTheInvariant : Prop :=
  ∀ (s t : State) (p : PinMap), s.cfg.Ok → s.cfg.lenCountsGap = false →
    s.sr.length = 8 * s.cfg.imageLen → s.out.length = 8 * s.cfg.imageLen →
    exec (.init p) s = .next t → Inv t

/-- From a command boundary no step faults, and no instruction of the block that the host issues
is refused: the operations are total (60_exceptions.md R222, 20_memory.md R60). -/
def Obligations.NoCommandFailsAtABoundary : Prop :=
  ∀ s : State, Inv s →
    (∀ r, step s ≠ .fault r) ∧
    (∀ i rest, decode .fHost s.host = .ok (i, rest) → ∃ t, step s = .next t)

/-- The two traces agree at reset (40_bus.md R108). That reset is the state after `INIT` is log 2's,
and the traces it starts with are log 13's. -/
def Obligations.ResetMeetsTheTraceInvariant : Prop := TraceOk State.reset

/-- Every step keeps the two traces in agreement: the frames are recovered from the wire alone, and
the outputs of the chain hold the last frame (40_bus.md R108, 20_memory.md R58, R65). -/
def Obligations.StepKeepsTheTracesInAgreement : Prop :=
  ∀ s t : State, TraceOk s → step s = .next t → TraceOk t

/-- No step changes the configuration or the length of the image (10_state.md R38, R31(a)), and the
wire and frame traces only grow (20_memory.md R64). -/
def Obligations.StepKeepsTheConfiguration : Prop :=
  ∀ s t : State, step s = .next t →
    t.cfg = s.cfg ∧
    (s.x.length = s.cfg.imageLen → t.x.length = s.cfg.imageLen) ∧
    s.wire <+: t.wire ∧
    s.frames <+: t.frames

/-- Disarming happens only by a tick that executes the `PAUSE` at the front (42_lcd_queue.md R172,
R159). -/
def Obligations.OnlyPauseDisarms : Prop :=
  ∀ s t : State, step s = .next t → s.armed = true → t.armed = false →
    s.q[0] = .pause ∧ ∃ rest, decode .fHost s.host = .ok (.pollLcd, rest)

/-- The overflow flag is cleared by nothing but `INIT`, and it becomes 1 only by a `SHOW_MESSAGE`
or `CLEAR_LCD` that leaves the queue without an empty slot (60_exceptions.md R233, R221). -/
def Obligations.OverflowIsSticky : Prop :=
  ∀ s t : State, step s = .next t →
    (s.ovf = true → t.ovf = false → ∃ p rest, decode .fHost s.host = .ok (.init p, rest)) ∧
    (s.ovf = false → t.ovf = true →
      (∀ i : Fin qcap, t.q[i] ≠ .pause) ∧
      ((∃ rest, decode .fHost s.host = .ok (.clearLcd, rest)) ∨
        ∃ src highScore rest, decode .fHost s.host = .ok (.showMessage src highScore, rest)))

/-- The two display paths do not disturb each other: a tick leaves the segment bytes, and
`SHOW_SCORE` and `CLEAR_SEGMENTS` leave the LCD bytes, the queue, `armed`, the buffer, the cursor
and the length (44_facade.md R206, 70_reset_and_hazards.md R265). -/
def Obligations.DisplayPathsAreDisjoint : Prop :=
  ∀ s t : State,
    (exec .pollLcd s = .next t → t.x.take s.cfg.nseg = s.x.take s.cfg.nseg) ∧
    ((exec .clearSegments s = .next t ∨ ∃ score, exec (.showScore score) s = .next t) →
      t.x.drop s.cfg.nseg = s.x.drop s.cfg.nseg ∧ t.q = s.q ∧ t.armed = s.armed ∧
      t.msg = s.msg ∧ t.messageProgress = s.messageProgress ∧
      t.messageLength = s.messageLength)

/-! ## Streams of ticks -/

/-- From `INIT` four ticks send the four power-on words in their order, three frames each, and the
fifth disarms (44_facade.md R202, 42_lcd_queue.md R166). -/
def Obligations.PowerOnSequenceIsSent : Prop :=
  ∀ (s t : State) (p : PinMap), exec (.init p) s = .next t →
    ∃ u v, ticks 4 t = .next u ∧ exec .pollLcd u = .next v ∧
      u.frames = t.frames ++
        [s.cfg.cwClear, s.cfg.cwSetEntryMode, s.cfg.cwSetDisplayControl,
          s.cfg.cwSetFunction].flatMap
          (fun w => strobeFrames s.cfg
            ((List.replicate s.cfg.imageLen 0x00#8).set s.cfg.ctrl w)) ∧
      u.q = emptyQueue ∧ u.armed = true ∧
      v.q = emptyQueue ∧ v.armed = false ∧ v.frames = u.frames

/-- A `WRITE_NEXT_CHAR` entry that reaches the front with the cursor at 0 and a message of `n`
characters runs on `n` consecutive ticks, sends `msg[0]` to `msg[n-1]` in order, and is dequeued
on the `n`-th (42_lcd_queue.md R165(a), R154). -/
def Obligations.MessageStreamsInOrder : Prop :=
  ∀ (s : State) (k : Nat), Inv s → s.q[0] = .writeNextChar → s.messageProgress = 0 →
    1 ≤ s.messageLength → k ≤ s.messageLength →
    ∃ t, ticks k s = .next t ∧
      t.messageProgress = k ∧
      t.msg = s.msg ∧
      t.q = (if k < s.messageLength then s.q else shiftQueue s.q) ∧
      t.frames = s.frames ++
        (List.range k).flatMap (fun j => strobeFrames s.cfg (charImage s.cfg s.x (s.msg.read j)))

/-- From an empty, disarmed queue `SHOW_MESSAGE` of visible length `n` is fully sent after
`2 + max(n, 1)` ticks: the frames of the `CLEAR` word, of the `RETURN_HOME` word, and of the
characters `msg[0]` on in order, three each; and the queue disarms on the tick after
(42_lcd_queue.md R166, R156, R157, R165). -/
def Obligations.ShowMessageIsSentInTime : Prop :=
  ∀ (s t : State) (src : List Byte) (highScore : Bool), Inv s → s.q = emptyQueue →
    s.armed = false → exec (.showMessage src highScore) s = .next t →
    ∃ u v, ticks (2 + max t.messageLength 1) t = .next u ∧ exec .pollLcd u = .next v ∧
      u.q = emptyQueue ∧ u.armed = true ∧ u.messageProgress = max t.messageLength 1 ∧
      u.frames = s.frames ++
        strobeFrames s.cfg (s.x.set s.cfg.ctrl s.cfg.cwClear) ++
        strobeFrames s.cfg (s.x.set s.cfg.ctrl s.cfg.cwReturnHome) ++
        (List.range (max t.messageLength 1)).flatMap
          (fun j => strobeFrames s.cfg (charImage s.cfg s.x (t.msg.read j))) ∧
      v.q = emptyQueue ∧ v.armed = false ∧ v.frames = u.frames

/-- From every command boundary the queue is empty and disarmed after at most 47 ticks with no new
entry: 20 entries, 26 characters, and the tick that disarms (70_reset_and_hazards.md R275). -/
def Obligations.QueueDrainsWithinBound : Prop :=
  ∀ s : State, Inv s → ∃ t, ticks 47 s = .next t ∧ t.q = emptyQueue ∧ t.armed = false

/-- There is no cancellation: a `CLEAR_LCD` issued while an entry is at the front leaves what the
next tick sends and does to the cursor (42_lcd_queue.md R153, R171, 70_reset_and_hazards.md
R263). -/
def Obligations.ClearLcdDoesNotPreempt : Prop :=
  ∀ s t u : State, Inv s → s.q[0] ≠ .pause → exec .clearLcd s = .next t →
    exec .pollLcd s = .next u →
    ∃ v, exec .pollLcd t = .next v ∧ v.frames = u.frames ∧ v.wire = u.wire ∧ v.x = u.x ∧
      v.messageProgress = u.messageProgress

/-! ## Power-on -/

/-- At power-on `initialized` and `irqHold` are 0, the lines are not yet outputs and nothing was
sent, whatever the state that the spec leaves unspecified holds (10_state.md R32, R35, R36, R41,
70_reset_and_hazards.md R251; the empty traces and the widths are the model's, log 24). -/
def Obligations.PowerOnHoldsItsColumn : Prop :=
  (∀ u : State, PowerOn (State.powerOnFrom u)) ∧ PowerOn State.powerOn

/-- The first `INIT` after power-on completes and starts the block: the lines are outputs with the
operand's assignment, the wire shows the five events of `BUS_INIT` and no frame, the chain is
unchanged, and the invariant of a command boundary and the agreement of the traces hold
(10_state.md R41, 44_facade.md R200, 40_bus.md R100; log 9, log 12, log 13). -/
def Obligations.FirstInitStartsTheBlock : Prop :=
  ∀ (s : State) (p : PinMap), PowerOn s → s.cfg.Ok → s.cfg.lenCountsGap = false →
    ∃ t, exec (.init p) s = .next t ∧ Inv t ∧ TraceOk t ∧
      t.pins = p ∧ t.wire = busInitEvents s.cfg ∧ t.frames = [] ∧ t.sr = s.sr ∧ t.out = s.out

/-- The model's reset state is one `INIT` after power-on, but for the chain, which `INIT` leaves as
it was and which reset names as zeros (70_reset_and_hazards.md R250, 10_state.md R41; that reset
is this state is log 2's, its pins are log 9's, its chain log 8's). -/
def Obligations.ResetIsInitAfterPowerOn : Prop :=
  ∀ u : State, exec (.init resetPins) (State.powerOnFrom u) = .next { State.reset with
    sr := (State.powerOnFrom u).sr
    out := (State.powerOnFrom u).out }

/-- Nothing but `INIT` takes the block out of power-on, and no step takes it back: before it a step
either does nothing or runs an `INIT`, which makes the lines outputs with its assignment; after it
`initialized` stays 1, the lines stay outputs and the assignment stays (10_state.md R32, R35, R38,
44_facade.md R204; log 5, log 9). -/
def Obligations.OnlyInitStartsTheBlock : Prop :=
  ∀ s t : State, step s = .next t →
    (s.initialized = false → t = s ∨
      ∃ p rest, decode .fHost s.host = .ok (.init p, rest) ∧
        t.initialized = true ∧ t.driven = true ∧ t.pins = p) ∧
    (s.initialized = true → t.initialized = true ∧ t.pins = s.pins) ∧
    (s.driven = true → t.driven = true)
end

