-- ==== Sys2Proof/Laws/State.lean ====
section
/-! SUPPORT. The fields of the state after each named update, one lemma for each field, so that no later
proof unfolds a record update. -/

namespace Sys2Proof.Machine

variable (s : State)

/-! ## setReg -/

@[simp] theorem setReg_cfg (i : Nat) (v : Byte) : (s.setReg i v).cfg = s.cfg := rfl
@[simp] theorem setReg_host (i : Nat) (v : Byte) : (s.setReg i v).host = s.host := rfl
@[simp] theorem setReg_pins (i : Nat) (v : Byte) : (s.setReg i v).pins = s.pins := rfl
@[simp] theorem setReg_driven (i : Nat) (v : Byte) : (s.setReg i v).driven = s.driven := rfl
@[simp] theorem setReg_pin (i : Nat) (v : Byte) : (s.setReg i v).pin = s.pin := rfl
@[simp] theorem setReg_x (i : Nat) (v : Byte) : (s.setReg i v).x = s.x.set i v := rfl
@[simp] theorem setReg_q (i : Nat) (v : Byte) : (s.setReg i v).q = s.q := rfl
@[simp] theorem setReg_armed (i : Nat) (v : Byte) : (s.setReg i v).armed = s.armed := rfl
@[simp] theorem setReg_msg (i : Nat) (v : Byte) : (s.setReg i v).msg = s.msg := rfl
@[simp] theorem setReg_messageProgress (i : Nat) (v : Byte) : (s.setReg i v).messageProgress = s.messageProgress := rfl
@[simp] theorem setReg_messageLength (i : Nat) (v : Byte) : (s.setReg i v).messageLength = s.messageLength := rfl
@[simp] theorem setReg_status (i : Nat) (v : Byte) : (s.setReg i v).status = s.status := rfl
@[simp] theorem setReg_ovf (i : Nat) (v : Byte) : (s.setReg i v).ovf = s.ovf := rfl
@[simp] theorem setReg_initialized (i : Nat) (v : Byte) : (s.setReg i v).initialized = s.initialized := rfl
@[simp] theorem setReg_irqHold (i : Nat) (v : Byte) : (s.setReg i v).irqHold = s.irqHold := rfl
@[simp] theorem setReg_sr (i : Nat) (v : Byte) : (s.setReg i v).sr = s.sr := rfl
@[simp] theorem setReg_out (i : Nat) (v : Byte) : (s.setReg i v).out = s.out := rfl
@[simp] theorem setReg_wire (i : Nat) (v : Byte) : (s.setReg i v).wire = s.wire := rfl
@[simp] theorem setReg_frames (i : Nat) (v : Byte) : (s.setReg i v).frames = s.frames := rfl

/-! ## dequeue -/

@[simp] theorem dequeue_cfg : (s.dequeue).cfg = s.cfg := by unfold State.dequeue; rfl
@[simp] theorem dequeue_host : (s.dequeue).host = s.host := by unfold State.dequeue; rfl
@[simp] theorem dequeue_pins : (s.dequeue).pins = s.pins := by unfold State.dequeue; rfl
@[simp] theorem dequeue_driven : (s.dequeue).driven = s.driven := by unfold State.dequeue; rfl
@[simp] theorem dequeue_pin : (s.dequeue).pin = s.pin := by unfold State.dequeue; rfl
@[simp] theorem dequeue_x : (s.dequeue).x = s.x := by unfold State.dequeue; rfl
@[simp] theorem dequeue_q : (s.dequeue).q = shiftQueue s.q := by unfold State.dequeue; rfl
@[simp] theorem dequeue_armed : (s.dequeue).armed = s.armed := by unfold State.dequeue; rfl
@[simp] theorem dequeue_msg : (s.dequeue).msg = s.msg := by unfold State.dequeue; rfl
@[simp] theorem dequeue_messageProgress : (s.dequeue).messageProgress = s.messageProgress := by unfold State.dequeue; rfl
@[simp] theorem dequeue_messageLength : (s.dequeue).messageLength = s.messageLength := by unfold State.dequeue; rfl
@[simp] theorem dequeue_status : (s.dequeue).status = s.status := by unfold State.dequeue; rfl
@[simp] theorem dequeue_ovf : (s.dequeue).ovf = s.ovf := by unfold State.dequeue; rfl
@[simp] theorem dequeue_initialized : (s.dequeue).initialized = s.initialized := by unfold State.dequeue; rfl
@[simp] theorem dequeue_irqHold : (s.dequeue).irqHold = s.irqHold := by unfold State.dequeue; rfl
@[simp] theorem dequeue_sr : (s.dequeue).sr = s.sr := by unfold State.dequeue; rfl
@[simp] theorem dequeue_out : (s.dequeue).out = s.out := by unfold State.dequeue; rfl
@[simp] theorem dequeue_wire : (s.dequeue).wire = s.wire := by unfold State.dequeue; rfl
@[simp] theorem dequeue_frames : (s.dequeue).frames = s.frames := by unfold State.dequeue; rfl

/-! ## setStatus -/

@[simp] theorem setStatus_cfg (v : Status) : (s.setStatus v).cfg = s.cfg := rfl
@[simp] theorem setStatus_host (v : Status) : (s.setStatus v).host = s.host := rfl
@[simp] theorem setStatus_pins (v : Status) : (s.setStatus v).pins = s.pins := rfl
@[simp] theorem setStatus_driven (v : Status) : (s.setStatus v).driven = s.driven := rfl
@[simp] theorem setStatus_pin (v : Status) : (s.setStatus v).pin = s.pin := rfl
@[simp] theorem setStatus_x (v : Status) : (s.setStatus v).x = s.x := rfl
@[simp] theorem setStatus_q (v : Status) : (s.setStatus v).q = s.q := rfl
@[simp] theorem setStatus_armed (v : Status) : (s.setStatus v).armed = s.armed := rfl
@[simp] theorem setStatus_msg (v : Status) : (s.setStatus v).msg = s.msg := rfl
@[simp] theorem setStatus_messageProgress (v : Status) : (s.setStatus v).messageProgress = s.messageProgress := rfl
@[simp] theorem setStatus_messageLength (v : Status) : (s.setStatus v).messageLength = s.messageLength := rfl
@[simp] theorem setStatus_status (v : Status) : (s.setStatus v).status = v := rfl
@[simp] theorem setStatus_ovf (v : Status) : (s.setStatus v).ovf = s.ovf := rfl
@[simp] theorem setStatus_initialized (v : Status) : (s.setStatus v).initialized = s.initialized := rfl
@[simp] theorem setStatus_irqHold (v : Status) : (s.setStatus v).irqHold = s.irqHold := rfl
@[simp] theorem setStatus_sr (v : Status) : (s.setStatus v).sr = s.sr := rfl
@[simp] theorem setStatus_out (v : Status) : (s.setStatus v).out = s.out := rfl
@[simp] theorem setStatus_wire (v : Status) : (s.setStatus v).wire = s.wire := rfl
@[simp] theorem setStatus_frames (v : Status) : (s.setStatus v).frames = s.frames := rfl

/-! ## setIrqHold -/

@[simp] theorem setIrqHold_cfg (b : Bool) : (s.setIrqHold b).cfg = s.cfg := rfl
@[simp] theorem setIrqHold_host (b : Bool) : (s.setIrqHold b).host = s.host := rfl
@[simp] theorem setIrqHold_pins (b : Bool) : (s.setIrqHold b).pins = s.pins := rfl
@[simp] theorem setIrqHold_driven (b : Bool) : (s.setIrqHold b).driven = s.driven := rfl
@[simp] theorem setIrqHold_pin (b : Bool) : (s.setIrqHold b).pin = s.pin := rfl
@[simp] theorem setIrqHold_x (b : Bool) : (s.setIrqHold b).x = s.x := rfl
@[simp] theorem setIrqHold_q (b : Bool) : (s.setIrqHold b).q = s.q := rfl
@[simp] theorem setIrqHold_armed (b : Bool) : (s.setIrqHold b).armed = s.armed := rfl
@[simp] theorem setIrqHold_msg (b : Bool) : (s.setIrqHold b).msg = s.msg := rfl
@[simp] theorem setIrqHold_messageProgress (b : Bool) : (s.setIrqHold b).messageProgress = s.messageProgress := rfl
@[simp] theorem setIrqHold_messageLength (b : Bool) : (s.setIrqHold b).messageLength = s.messageLength := rfl
@[simp] theorem setIrqHold_status (b : Bool) : (s.setIrqHold b).status = s.status := rfl
@[simp] theorem setIrqHold_ovf (b : Bool) : (s.setIrqHold b).ovf = s.ovf := rfl
@[simp] theorem setIrqHold_initialized (b : Bool) : (s.setIrqHold b).initialized = s.initialized := rfl
@[simp] theorem setIrqHold_irqHold (b : Bool) : (s.setIrqHold b).irqHold = b := rfl
@[simp] theorem setIrqHold_sr (b : Bool) : (s.setIrqHold b).sr = s.sr := rfl
@[simp] theorem setIrqHold_out (b : Bool) : (s.setIrqHold b).out = s.out := rfl
@[simp] theorem setIrqHold_wire (b : Bool) : (s.setIrqHold b).wire = s.wire := rfl
@[simp] theorem setIrqHold_frames (b : Bool) : (s.setIrqHold b).frames = s.frames := rfl

/-! ## disarm -/

@[simp] theorem disarm_cfg : (s.disarm).cfg = s.cfg := rfl
@[simp] theorem disarm_host : (s.disarm).host = s.host := rfl
@[simp] theorem disarm_pins : (s.disarm).pins = s.pins := rfl
@[simp] theorem disarm_driven : (s.disarm).driven = s.driven := rfl
@[simp] theorem disarm_pin : (s.disarm).pin = s.pin := rfl
@[simp] theorem disarm_x : (s.disarm).x = s.x := rfl
@[simp] theorem disarm_q : (s.disarm).q = s.q := rfl
@[simp] theorem disarm_armed : (s.disarm).armed = false := rfl
@[simp] theorem disarm_msg : (s.disarm).msg = s.msg := rfl
@[simp] theorem disarm_messageProgress : (s.disarm).messageProgress = s.messageProgress := rfl
@[simp] theorem disarm_messageLength : (s.disarm).messageLength = s.messageLength := rfl
@[simp] theorem disarm_status : (s.disarm).status = s.status := rfl
@[simp] theorem disarm_ovf : (s.disarm).ovf = s.ovf := rfl
@[simp] theorem disarm_initialized : (s.disarm).initialized = s.initialized := rfl
@[simp] theorem disarm_irqHold : (s.disarm).irqHold = s.irqHold := rfl
@[simp] theorem disarm_sr : (s.disarm).sr = s.sr := rfl
@[simp] theorem disarm_out : (s.disarm).out = s.out := rfl
@[simp] theorem disarm_wire : (s.disarm).wire = s.wire := rfl
@[simp] theorem disarm_frames : (s.disarm).frames = s.frames := rfl

/-! ## advanceCursor -/

@[simp] theorem advanceCursor_cfg : (s.advanceCursor).cfg = s.cfg := rfl
@[simp] theorem advanceCursor_host : (s.advanceCursor).host = s.host := rfl
@[simp] theorem advanceCursor_pins : (s.advanceCursor).pins = s.pins := rfl
@[simp] theorem advanceCursor_driven : (s.advanceCursor).driven = s.driven := rfl
@[simp] theorem advanceCursor_pin : (s.advanceCursor).pin = s.pin := rfl
@[simp] theorem advanceCursor_x : (s.advanceCursor).x = s.x := rfl
@[simp] theorem advanceCursor_q : (s.advanceCursor).q = s.q := rfl
@[simp] theorem advanceCursor_armed : (s.advanceCursor).armed = s.armed := rfl
@[simp] theorem advanceCursor_msg : (s.advanceCursor).msg = s.msg := rfl
@[simp] theorem advanceCursor_messageProgress : (s.advanceCursor).messageProgress = s.messageProgress + 1 := rfl
@[simp] theorem advanceCursor_messageLength : (s.advanceCursor).messageLength = s.messageLength := rfl
@[simp] theorem advanceCursor_status : (s.advanceCursor).status = s.status := rfl
@[simp] theorem advanceCursor_ovf : (s.advanceCursor).ovf = s.ovf := rfl
@[simp] theorem advanceCursor_initialized : (s.advanceCursor).initialized = s.initialized := rfl
@[simp] theorem advanceCursor_irqHold : (s.advanceCursor).irqHold = s.irqHold := rfl
@[simp] theorem advanceCursor_sr : (s.advanceCursor).sr = s.sr := rfl
@[simp] theorem advanceCursor_out : (s.advanceCursor).out = s.out := rfl
@[simp] theorem advanceCursor_wire : (s.advanceCursor).wire = s.wire := rfl
@[simp] theorem advanceCursor_frames : (s.advanceCursor).frames = s.frames := rfl

/-! ## markOverflow -/

@[simp] theorem markOverflow_cfg : (s.markOverflow).cfg = s.cfg := rfl
@[simp] theorem markOverflow_host : (s.markOverflow).host = s.host := rfl
@[simp] theorem markOverflow_pins : (s.markOverflow).pins = s.pins := rfl
@[simp] theorem markOverflow_driven : (s.markOverflow).driven = s.driven := rfl
@[simp] theorem markOverflow_pin : (s.markOverflow).pin = s.pin := rfl
@[simp] theorem markOverflow_x : (s.markOverflow).x = s.x := rfl
@[simp] theorem markOverflow_q : (s.markOverflow).q = s.q := rfl
@[simp] theorem markOverflow_armed : (s.markOverflow).armed = s.armed := rfl
@[simp] theorem markOverflow_msg : (s.markOverflow).msg = s.msg := rfl
@[simp] theorem markOverflow_messageProgress : (s.markOverflow).messageProgress = s.messageProgress := rfl
@[simp] theorem markOverflow_messageLength : (s.markOverflow).messageLength = s.messageLength := rfl
@[simp] theorem markOverflow_status : (s.markOverflow).status = s.status := rfl
@[simp] theorem markOverflow_ovf : (s.markOverflow).ovf = true := rfl
@[simp] theorem markOverflow_initialized : (s.markOverflow).initialized = s.initialized := rfl
@[simp] theorem markOverflow_irqHold : (s.markOverflow).irqHold = s.irqHold := rfl
@[simp] theorem markOverflow_sr : (s.markOverflow).sr = s.sr := rfl
@[simp] theorem markOverflow_out : (s.markOverflow).out = s.out := rfl
@[simp] theorem markOverflow_wire : (s.markOverflow).wire = s.wire := rfl
@[simp] theorem markOverflow_frames : (s.markOverflow).frames = s.frames := rfl

/-! ## markInitialized -/

@[simp] theorem markInitialized_cfg : (s.markInitialized).cfg = s.cfg := rfl
@[simp] theorem markInitialized_host : (s.markInitialized).host = s.host := rfl
@[simp] theorem markInitialized_pins : (s.markInitialized).pins = s.pins := rfl
@[simp] theorem markInitialized_driven : (s.markInitialized).driven = s.driven := rfl
@[simp] theorem markInitialized_pin : (s.markInitialized).pin = s.pin := rfl
@[simp] theorem markInitialized_x : (s.markInitialized).x = s.x := rfl
@[simp] theorem markInitialized_q : (s.markInitialized).q = s.q := rfl
@[simp] theorem markInitialized_armed : (s.markInitialized).armed = s.armed := rfl
@[simp] theorem markInitialized_msg : (s.markInitialized).msg = s.msg := rfl
@[simp] theorem markInitialized_messageProgress : (s.markInitialized).messageProgress = s.messageProgress := rfl
@[simp] theorem markInitialized_messageLength : (s.markInitialized).messageLength = s.messageLength := rfl
@[simp] theorem markInitialized_status : (s.markInitialized).status = s.status := rfl
@[simp] theorem markInitialized_ovf : (s.markInitialized).ovf = s.ovf := rfl
@[simp] theorem markInitialized_initialized : (s.markInitialized).initialized = true := rfl
@[simp] theorem markInitialized_irqHold : (s.markInitialized).irqHold = s.irqHold := rfl
@[simp] theorem markInitialized_sr : (s.markInitialized).sr = s.sr := rfl
@[simp] theorem markInitialized_out : (s.markInitialized).out = s.out := rfl
@[simp] theorem markInitialized_wire : (s.markInitialized).wire = s.wire := rfl
@[simp] theorem markInitialized_frames : (s.markInitialized).frames = s.frames := rfl

/-! ## makeOutputs -/

@[simp] theorem makeOutputs_cfg (p : PinMap) : (s.makeOutputs p).cfg = s.cfg := rfl
@[simp] theorem makeOutputs_host (p : PinMap) : (s.makeOutputs p).host = s.host := rfl
@[simp] theorem makeOutputs_pins (p : PinMap) : 
    (s.makeOutputs p).pins = if s.initialized then s.pins else p := rfl
@[simp] theorem makeOutputs_driven (p : PinMap) : (s.makeOutputs p).driven = true := rfl
@[simp] theorem makeOutputs_pin (p : PinMap) : (s.makeOutputs p).pin = s.pin := rfl
@[simp] theorem makeOutputs_x (p : PinMap) : (s.makeOutputs p).x = s.x := rfl
@[simp] theorem makeOutputs_q (p : PinMap) : (s.makeOutputs p).q = s.q := rfl
@[simp] theorem makeOutputs_armed (p : PinMap) : (s.makeOutputs p).armed = s.armed := rfl
@[simp] theorem makeOutputs_msg (p : PinMap) : (s.makeOutputs p).msg = s.msg := rfl
@[simp] theorem makeOutputs_messageProgress (p : PinMap) : (s.makeOutputs p).messageProgress = s.messageProgress := rfl
@[simp] theorem makeOutputs_messageLength (p : PinMap) : (s.makeOutputs p).messageLength = s.messageLength := rfl
@[simp] theorem makeOutputs_status (p : PinMap) : (s.makeOutputs p).status = s.status := rfl
@[simp] theorem makeOutputs_ovf (p : PinMap) : (s.makeOutputs p).ovf = s.ovf := rfl
@[simp] theorem makeOutputs_initialized (p : PinMap) : (s.makeOutputs p).initialized = s.initialized := rfl
@[simp] theorem makeOutputs_irqHold (p : PinMap) : (s.makeOutputs p).irqHold = s.irqHold := rfl
@[simp] theorem makeOutputs_sr (p : PinMap) : (s.makeOutputs p).sr = s.sr := rfl
@[simp] theorem makeOutputs_out (p : PinMap) : (s.makeOutputs p).out = s.out := rfl
@[simp] theorem makeOutputs_wire (p : PinMap) : (s.makeOutputs p).wire = s.wire := rfl
@[simp] theorem makeOutputs_frames (p : PinMap) : (s.makeOutputs p).frames = s.frames := rfl

/-! ## recordFrame -/

@[simp] theorem recordFrame_cfg : (s.recordFrame).cfg = s.cfg := rfl
@[simp] theorem recordFrame_host : (s.recordFrame).host = s.host := rfl
@[simp] theorem recordFrame_pins : (s.recordFrame).pins = s.pins := rfl
@[simp] theorem recordFrame_driven : (s.recordFrame).driven = s.driven := rfl
@[simp] theorem recordFrame_pin : (s.recordFrame).pin = s.pin := rfl
@[simp] theorem recordFrame_x : (s.recordFrame).x = s.x := rfl
@[simp] theorem recordFrame_q : (s.recordFrame).q = s.q := rfl
@[simp] theorem recordFrame_armed : (s.recordFrame).armed = s.armed := rfl
@[simp] theorem recordFrame_msg : (s.recordFrame).msg = s.msg := rfl
@[simp] theorem recordFrame_messageProgress : (s.recordFrame).messageProgress = s.messageProgress := rfl
@[simp] theorem recordFrame_messageLength : (s.recordFrame).messageLength = s.messageLength := rfl
@[simp] theorem recordFrame_status : (s.recordFrame).status = s.status := rfl
@[simp] theorem recordFrame_ovf : (s.recordFrame).ovf = s.ovf := rfl
@[simp] theorem recordFrame_initialized : (s.recordFrame).initialized = s.initialized := rfl
@[simp] theorem recordFrame_irqHold : (s.recordFrame).irqHold = s.irqHold := rfl
@[simp] theorem recordFrame_sr : (s.recordFrame).sr = s.sr := rfl
@[simp] theorem recordFrame_out : (s.recordFrame).out = s.out := rfl
@[simp] theorem recordFrame_wire : (s.recordFrame).wire = s.wire := rfl
@[simp] theorem recordFrame_frames : (s.recordFrame).frames = s.frames ++ [s.x] := rfl

/-! ## setLine -/

@[simp] theorem setLine_cfg (P : Line) (b : Level) : (s.setLine P b).cfg = s.cfg := rfl
@[simp] theorem setLine_host (P : Line) (b : Level) : (s.setLine P b).host = s.host := rfl
@[simp] theorem setLine_pins (P : Line) (b : Level) : (s.setLine P b).pins = s.pins := rfl
@[simp] theorem setLine_driven (P : Line) (b : Level) : (s.setLine P b).driven = s.driven := rfl
@[simp] theorem setLine_pin (P : Line) (b : Level) : (s.setLine P b).pin = s.pin.drive P b := rfl
@[simp] theorem setLine_x (P : Line) (b : Level) : (s.setLine P b).x = s.x := rfl
@[simp] theorem setLine_q (P : Line) (b : Level) : (s.setLine P b).q = s.q := rfl
@[simp] theorem setLine_armed (P : Line) (b : Level) : (s.setLine P b).armed = s.armed := rfl
@[simp] theorem setLine_msg (P : Line) (b : Level) : (s.setLine P b).msg = s.msg := rfl
@[simp] theorem setLine_messageProgress (P : Line) (b : Level) : (s.setLine P b).messageProgress = s.messageProgress := rfl
@[simp] theorem setLine_messageLength (P : Line) (b : Level) : (s.setLine P b).messageLength = s.messageLength := rfl
@[simp] theorem setLine_status (P : Line) (b : Level) : (s.setLine P b).status = s.status := rfl
@[simp] theorem setLine_ovf (P : Line) (b : Level) : (s.setLine P b).ovf = s.ovf := rfl
@[simp] theorem setLine_initialized (P : Line) (b : Level) : (s.setLine P b).initialized = s.initialized := rfl
@[simp] theorem setLine_irqHold (P : Line) (b : Level) : (s.setLine P b).irqHold = s.irqHold := rfl
@[simp] theorem setLine_sr (P : Line) (b : Level) : (s.setLine P b).sr = cellsAfter s.pin s.sr P b := rfl
@[simp] theorem setLine_out (P : Line) (b : Level) : (s.setLine P b).out = outputsAfter s.pin s.sr s.out P b := rfl
@[simp] theorem setLine_wire (P : Line) (b : Level) : (s.setLine P b).wire = s.wire ++ [⟨P, b⟩] := rfl
@[simp] theorem setLine_frames (P : Line) (b : Level) : (s.setLine P b).frames = s.frames := rfl

/-! ## zeroAll -/

@[simp] theorem zeroAll_cfg : (s.zeroAll).cfg = s.cfg := rfl
@[simp] theorem zeroAll_host : (s.zeroAll).host = s.host := rfl
@[simp] theorem zeroAll_pins : (s.zeroAll).pins = s.pins := rfl
@[simp] theorem zeroAll_driven : (s.zeroAll).driven = s.driven := rfl
@[simp] theorem zeroAll_pin : (s.zeroAll).pin = s.pin := rfl
@[simp] theorem zeroAll_x : (s.zeroAll).x = List.replicate s.cfg.imageLen 0x00#8 := rfl
@[simp] theorem zeroAll_q : (s.zeroAll).q = emptyQueue := rfl
@[simp] theorem zeroAll_armed : (s.zeroAll).armed = false := rfl
@[simp] theorem zeroAll_msg : (s.zeroAll).msg = [] := rfl
@[simp] theorem zeroAll_messageProgress : (s.zeroAll).messageProgress = 0 := rfl
@[simp] theorem zeroAll_messageLength : (s.zeroAll).messageLength = 0 := rfl
@[simp] theorem zeroAll_status : (s.zeroAll).status = s.status := rfl
@[simp] theorem zeroAll_ovf : (s.zeroAll).ovf = false := rfl
@[simp] theorem zeroAll_initialized : (s.zeroAll).initialized = s.initialized := rfl
@[simp] theorem zeroAll_irqHold : (s.zeroAll).irqHold = false := rfl
@[simp] theorem zeroAll_sr : (s.zeroAll).sr = s.sr := rfl
@[simp] theorem zeroAll_out : (s.zeroAll).out = s.out := rfl
@[simp] theorem zeroAll_wire : (s.zeroAll).wire = s.wire := rfl
@[simp] theorem zeroAll_frames : (s.zeroAll).frames = s.frames := rfl

end Sys2Proof.Machine
end

