-- ==== Sys2Proof/Laws/Bus.lean ====
section
/-! SUPPORT. What the bus operations do: for each one lemma that says it all, and the fields it leaves
alone. -/

namespace Sys2Proof.Machine

/-- The three events of one bit of a refresh. -/
abbrev bitEvents (b : Level) : List WireEvent := [⟨.sdi, b⟩, ⟨.sck, true⟩, ⟨.sck, false⟩]

/-- `s` and `t` agree on every field but those the bus writes: the lines, the chain, the traces. -/
structure BusFrame (s t : State) : Prop where
  cfg : t.cfg = s.cfg
  host : t.host = s.host
  pins : t.pins = s.pins
  driven : t.driven = s.driven
  x : t.x = s.x
  q : t.q = s.q
  armed : t.armed = s.armed
  msg : t.msg = s.msg
  messageProgress : t.messageProgress = s.messageProgress
  messageLength : t.messageLength = s.messageLength
  status : t.status = s.status
  ovf : t.ovf = s.ovf
  initialized : t.initialized = s.initialized
  irqHold : t.irqHold = s.irqHold

theorem BusFrame.refl (s : State) : BusFrame s s :=
  ⟨rfl, rfl, rfl, rfl, rfl, rfl, rfl, rfl, rfl, rfl, rfl, rfl, rfl, rfl⟩

theorem BusFrame.trans {s t u : State} (h : BusFrame s t) (k : BusFrame t u) : BusFrame s u :=
  ⟨k.1.trans h.1, k.2.trans h.2, k.3.trans h.3, k.4.trans h.4, k.5.trans h.5, k.6.trans h.6,
    k.7.trans h.7, k.8.trans h.8, k.9.trans h.9, k.10.trans h.10, k.11.trans h.11,
    k.12.trans h.12, k.13.trans h.13, k.14.trans h.14⟩

theorem setLine_frame (s : State) (P : Line) (b : Level) : BusFrame s (s.setLine P b) :=
  ⟨rfl, rfl, rfl, rfl, rfl, rfl, rfl, rfl, rfl, rfl, rfl, rfl, rfl, rfl⟩

theorem pulse_frame (s : State) (P : Line) : BusFrame s (s.pulse P) :=
  (setLine_frame s P true).trans (setLine_frame _ P false)

theorem shiftBits_frame (s : State) (bs : List Level) : BusFrame s (s.shiftBits bs) := by
  induction bs generalizing s with
  | nil => exact .refl s
  | cons b bs ih => exact ((setLine_frame s .sdi b).trans (pulse_frame _ .sck)).trans (ih _)

theorem recordFrame_frame (s : State) : BusFrame s s.recordFrame :=
  ⟨rfl, rfl, rfl, rfl, rfl, rfl, rfl, rfl, rfl, rfl, rfl, rfl, rfl, rfl⟩

/-- `REFRESH` writes the lines, the chain and the traces, and nothing else. -/
theorem refresh_frame (s : State) : BusFrame s s.refresh :=
  ((shiftBits_frame s _).trans (pulse_frame _ .rck)).trans (recordFrame_frame _)

@[simp] theorem refresh_cfg (s : State) : s.refresh.cfg = s.cfg := (refresh_frame s).cfg
@[simp] theorem refresh_host (s : State) : s.refresh.host = s.host := (refresh_frame s).host
@[simp] theorem refresh_pins (s : State) : s.refresh.pins = s.pins := (refresh_frame s).pins
@[simp] theorem refresh_driven (s : State) : s.refresh.driven = s.driven := (refresh_frame s).driven
@[simp] theorem refresh_x (s : State) : s.refresh.x = s.x := (refresh_frame s).x
@[simp] theorem refresh_q (s : State) : s.refresh.q = s.q := (refresh_frame s).q
@[simp] theorem refresh_armed (s : State) : s.refresh.armed = s.armed := (refresh_frame s).armed
@[simp] theorem refresh_msg (s : State) : s.refresh.msg = s.msg := (refresh_frame s).msg
@[simp] theorem refresh_messageProgress (s : State) :
    s.refresh.messageProgress = s.messageProgress := (refresh_frame s).messageProgress
@[simp] theorem refresh_messageLength (s : State) :
    s.refresh.messageLength = s.messageLength := (refresh_frame s).messageLength
@[simp] theorem refresh_status (s : State) : s.refresh.status = s.status := (refresh_frame s).status
@[simp] theorem refresh_ovf (s : State) : s.refresh.ovf = s.ovf := (refresh_frame s).ovf
@[simp] theorem refresh_initialized (s : State) :
    s.refresh.initialized = s.initialized := (refresh_frame s).initialized
@[simp] theorem refresh_irqHold (s : State) :
    s.refresh.irqHold = s.irqHold := (refresh_frame s).irqHold

/-! ## The lines, the chain and the traces -/

@[simp] theorem drive_sdi (p : Pins) (b : Level) : p.drive .sdi b = { p with sdi := b } := rfl
@[simp] theorem drive_sck (p : Pins) (b : Level) : p.drive .sck b = { p with sck := b } := rfl
@[simp] theorem drive_rck (p : Pins) (b : Level) : p.drive .rck b = { p with rck := b } := rfl
@[simp] theorem drive_clr (p : Pins) (b : Level) : p.drive .clr b = { p with clr := b } := rfl
@[simp] theorem drive_oe (p : Pins) (b : Level) : p.drive .oe b = { p with oe := b } := rfl

/-- A pulse of SCK from its idle level shifts SDI into the chain. -/
theorem pulse_sck {s : State} (h : s.pin.sck = false) :
    s.pulse .sck =
      { s with
        wire := s.wire ++ [⟨.sck, true⟩, ⟨.sck, false⟩]
        sr := (s.pin.sdi :: s.sr).take s.sr.length } := by
  have hp : s.pin = { s.pin with sck := false } := by rw [← h]
  simp only [State.pulse, State.setLine, cellsAfter, outputsAfter, Pins.drive, h]
  rw [List.append_assoc, ← hp]
  rfl

/-- A pulse of RCK from its idle level latches the cells. -/
theorem pulse_rck {s : State} (h : s.pin.rck = false) :
    s.pulse .rck =
      { s with
        wire := s.wire ++ [⟨.rck, true⟩, ⟨.rck, false⟩]
        out := s.sr } := by
  have hp : s.pin = { s.pin with rck := false } := by rw [← h]
  simp only [State.pulse, State.setLine, cellsAfter, outputsAfter, Pins.drive, h]
  rw [List.append_assoc, ← hp]
  rfl

/-- Shifting bits with SCK idle: three events a bit, SDI at the last bit, and the chain filled
from the front, the last bit in cell 0. -/
theorem shiftBits_eq {s : State} (h : s.pin.sck = false) (bs : List Level) :
    s.shiftBits bs =
      { s with
        wire := s.wire ++ bs.flatMap bitEvents
        pin := { s.pin with sdi := bs.getLastD s.pin.sdi }
        sr := (bs.reverse ++ s.sr).take s.sr.length } := by
  induction bs generalizing s with
  | nil => simp [State.shiftBits]
  | cons b bs ih =>
    have h1 : (s.setLine .sdi b).pin.sck = false := h
    have h2 : ((s.setLine .sdi b).pulse .sck).pin.sck = false := by rw [pulse_sck h1]; exact h1
    rw [State.shiftBits, ih h2, pulse_sck h1]
    have e1 : (s.setLine .sdi b).sr = s.sr := rfl
    have e2 : (s.setLine .sdi b).pin = { s.pin with sdi := b } := rfl
    have e3 : (s.setLine .sdi b).wire = s.wire ++ [⟨.sdi, b⟩] := rfl
    have e4 : (s.setLine .sdi b).out = s.out := rfl
    simp only [e1, e2, e3]
    rw [State.mk.injEq]
    refine ⟨rfl, rfl, rfl, rfl, ?_, rfl, rfl, rfl, rfl, rfl, rfl, rfl, rfl, rfl, rfl, ?_, e4, ?_,
      rfl⟩
    · cases bs <;> simp [List.getLastD]
    · simp only [List.length_take, List.length_cons, List.reverse_cons, List.append_assoc,
        List.singleton_append]
      rw [Nat.min_eq_left (Nat.le_succ _), List.take_append, List.take_append, List.take_take]
      congr 2
      omega
    · simp [bitEvents]

/-- `REFRESH` with the clocks idle: the image on the wire, one latch pulse, the cells and the
outputs filled from it, and one frame more. -/
theorem refresh_eq {s : State} (hs : s.pin.sck = false) (hr : s.pin.rck = false) :
    s.refresh =
      { s with
        wire := s.wire ++ ((imageBits s.x).flatMap bitEvents ++ [⟨.rck, true⟩, ⟨.rck, false⟩])
        pin := { s.pin with sdi := (imageBits s.x).getLastD s.pin.sdi }
        sr := ((imageBits s.x).reverse ++ s.sr).take s.sr.length
        out := ((imageBits s.x).reverse ++ s.sr).take s.sr.length
        frames := s.frames ++ [s.x] } := by
  have h1 : (s.shiftBits (imageBits s.x)).pin.rck = false := by rw [shiftBits_eq hs]; exact hr
  rw [State.refresh, pulse_rck h1, shiftBits_eq hs]
  simp [State.recordFrame]

/-- After `REFRESH` with the clocks idle they are idle again. -/
theorem refresh_idle {s : State} (hs : s.pin.sck = false) (hr : s.pin.rck = false) :
    s.refresh.pin.sck = false ∧ s.refresh.pin.rck = false ∧
      s.refresh.pin.clr = s.pin.clr ∧ s.refresh.pin.oe = s.pin.oe := by
  rw [refresh_eq hs hr]; exact ⟨hs, hr, rfl, rfl⟩

/-! ## Segment writes -/

/-- A run of segment writes inside the image changes that stretch of the image and nothing else. -/
theorem setRegs_eq (s : State) (i : Nat) (bs : List Byte) (h : i + bs.length ≤ s.x.length) :
    s.setRegs i bs = { s with x := s.x.take i ++ bs ++ s.x.drop (i + bs.length) } := by
  induction bs generalizing s i with
  | nil => simp [State.setRegs]
  | cons b bs ih =>
    simp only [List.length_cons] at h
    rw [State.setRegs, ih _ _ (by simp; omega)]
    simp only [setReg_x]
    rw [State.mk.injEq]
    refine ⟨rfl, rfl, rfl, rfl, rfl, ?_, rfl, rfl, rfl, rfl, rfl, rfl, rfl, rfl, rfl, rfl, rfl, rfl,
      rfl⟩
    rw [List.set_eq_take_append_cons_drop, if_pos (by omega)]
    simp only [List.length_cons]
    have hl : (s.x.take i).length = i := by simp; omega
    rw [List.take_append, List.drop_append]
    simp [hl, List.take_take]
    rw [List.drop_eq_nil_of_le (by omega), show i + 1 + bs.length - i = bs.length + 1 by omega]
    simp only [List.nil_append, List.drop_succ_cons, List.drop_drop]
    congr 1
    omega

/-! ## BUS_INIT and PULSE_ENABLE -/

/-- `BUS_INIT` drives the five idle levels, fixes the assignment the first time, and makes no clock edge that
the chain acts on. -/
theorem busInit_eq (s : State) (p : PinMap) :
    s.busInit p =
      { s with
        pins := if s.initialized then s.pins else p
        driven := true
        wire := s.wire ++ busInitEvents s.cfg
        pin := idlePins s.cfg } := by
  simp [State.busInit, State.setLine, State.makeOutputs, cellsAfter, outputsAfter, Pins.drive]

end Sys2Proof.Machine
end

