-- ==== Sys2Proof/Laws/Memory.lean ====
section
/-! SUPPORT. The laws of the message buffer: what a read sees after a write, that equal reads mean equal
buffers, and that every operation keeps the canonical form. -/

namespace Sys2Proof.Machine

/-- Every listed address lies above `p`. -/
abbrev Memory.above (p : Nat) (m : Memory) : Prop := ∀ c ∈ m, p < c.1

@[simp] theorem memory_read_nil (p : Nat) : Memory.read [] p = unlistedByte := rfl

theorem memory_read_cons (a : Nat) (v : Byte) (m : Memory) (p : Nat) :
    Memory.read ((a, v) :: m) p = if a = p then v else Memory.read m p := rfl

theorem memory_read_below {m : Memory} {p : Nat} (h : Memory.above p m) : m.read p = unlistedByte := by
  induction m with
  | nil => rfl
  | cons c m ih =>
    obtain ⟨a, v⟩ := c
    have ha : p < a := h (a, v) (by simp)
    rw [memory_read_cons, if_neg (by omega)]
    exact ih fun c hc => h c (by simp [hc])

theorem wf_tail {c : Host.Cell} {m : Memory} (h : Memory.wf (c :: m)) : Memory.wf m :=
  ⟨(List.pairwise_cons.mp h.1).2, fun d hd => h.2 d (by simp [hd])⟩

theorem wf_above {c : Host.Cell} {m : Memory} (h : Memory.wf (c :: m)) : Memory.above c.1 m :=
  (List.pairwise_cons.mp h.1).1

@[simp] theorem wf_nil : Memory.wf [] := ⟨List.Pairwise.nil, by simp⟩

theorem wf_cons {a : Nat} {v : Byte} {m : Memory} (hm : m.wf) (ha : Memory.above a m)
    (hv : v ≠ unlistedByte) (hb : a < msgcap) : Memory.wf ((a, v) :: m) := by
  refine ⟨List.pairwise_cons.mpr ⟨ha, hm.1⟩, ?_⟩
  rintro c hc
  rcases List.mem_cons.mp hc with rfl | hc
  · exact ⟨hv, hb⟩
  · exact hm.2 c hc

/-- A write lists no address but its own and those listed before. -/
theorem above_write {m : Memory} {k p : Nat} {b : Byte} (h : Memory.above k m) (hp : k < p) :
    Memory.above k (m.write p b) := by
  induction m with
  | nil =>
    intro c hc
    by_cases hb : b = unlistedByte
    · simp [Memory.write, hb] at hc
    · simp [Memory.write, hb] at hc
      subst hc; exact hp
  | cons d m ih =>
    obtain ⟨a, v⟩ := d
    have ha : k < a := h (a, v) (by simp)
    have hm : Memory.above k m := fun c hc => h c (by simp [hc])
    intro c hc
    unfold Memory.write at hc
    split_ifs at hc <;> try simp only [List.mem_cons] at hc
    · rcases hc with rfl | hc
      · exact ha
      · exact hm c hc
    · rcases hc with rfl | rfl | hc
      · exact hp
      · exact ha
      · exact hm c hc
    · exact hm c hc
    · rcases hc with rfl | hc
      · exact hp
      · exact hm c hc
    · rcases hc with rfl | hc
      · exact ha
      · exact ih hm c hc

/-- A write inside the buffer keeps the canonical form. -/
theorem write_wf {m : Memory} (hm : m.wf) {p : Nat} (hp : p < msgcap) (b : Byte) :
    (m.write p b).wf := by
  induction m with
  | nil =>
    unfold Memory.write
    split
    · exact wf_nil
    · exact wf_cons wf_nil (by intro c hc; simp at hc) ‹_› hp
  | cons d m ih =>
    obtain ⟨a, v⟩ := d
    have hm' := wf_tail hm
    have ha : Memory.above a m := wf_above hm
    have hd := hm.2 (a, v) (by simp)
    unfold Memory.write
    split_ifs with h1 h2 h3 h4
    · exact hm
    · refine wf_cons hm ?_ h2 hp
      intro c hc
      rcases List.mem_cons.mp hc with rfl | hc
      · exact h1
      · exact lt_trans h1 (ha c hc)
    · exact hm'
    · subst h3; exact wf_cons hm' ha h4 hp
    · exact wf_cons (ih hm') (above_write ha (by omega)) hd.1 hd.2

/-- Reading back the position written gives the byte; every other position reads as before. -/
theorem read_write {m : Memory} (hm : m.wf) (p a : Nat) (b : Byte) :
    (m.write p b).read a = if a = p then b else m.read a := by
  induction m with
  | nil =>
    by_cases hb : b = unlistedByte <;> by_cases hp : a = p <;>
      simp [Memory.write, hb, hp, memory_read_cons, Ne.symm]
  | cons d m ih =>
    obtain ⟨k, v⟩ := d
    have ha : Memory.above k m := wf_above hm
    have low : p < k → Memory.read ((k, v) :: m) p = unlistedByte := fun h =>
      memory_read_below fun c hc => by
        rcases List.mem_cons.mp hc with rfl | hc
        · exact h
        · exact lt_trans h (ha c hc)
    unfold Memory.write
    by_cases h1 : p < k
    · rw [if_pos h1]
      by_cases hb : b = unlistedByte
      · rw [if_pos hb]
        by_cases hp : a = p
        · rw [if_pos hp, hp, low h1, hb]
        · rw [if_neg hp]
      · rw [if_neg hb, memory_read_cons]
        simp only [eq_comm]
    · rw [if_neg h1]
      by_cases h2 : p = k
      · rw [if_pos h2]
        subst h2
        by_cases hb : b = unlistedByte
        · rw [if_pos hb]
          by_cases hp : a = p
          · rw [if_pos hp, hp, memory_read_below ha, hb]
          · rw [if_neg hp, memory_read_cons, if_neg (Ne.symm hp)]
        · rw [if_neg hb, memory_read_cons, memory_read_cons]
          by_cases hp : a = p
          · simp [hp]
          · simp [hp, Ne.symm hp]
      · rw [if_neg h2, memory_read_cons, memory_read_cons, ih (wf_tail hm)]
        by_cases hk : k = a
        · subst hk; simp [Ne.symm h2]
        · simp [hk]

/-- Two buffers in canonical form that read the same are the same. -/
theorem memory_ext {m n : Memory} (hm : m.wf) (hn : n.wf) (h : ∀ p, m.read p = n.read p) :
    m = n := by
  have nonempty_read : ∀ {c : Host.Cell} {l : Memory}, Memory.wf (c :: l) →
      Memory.read (c :: l) c.1 ≠ unlistedByte := by
    intro c l hl
    obtain ⟨a, v⟩ := c
    simpa [memory_read_cons] using (hl.2 (a, v) (by simp)).1
  induction m generalizing n with
  | nil =>
    cases n with
    | nil => rfl
    | cons c n => exact absurd (h c.1).symm (nonempty_read hn)
  | cons c m ih =>
    cases n with
    | nil => exact absurd (h c.1) (nonempty_read hm)
    | cons d n =>
      obtain ⟨a, v⟩ := c
      obtain ⟨b, w⟩ := d
      have hm' : Memory.above a m := wf_above hm
      have hn' : Memory.above b n := wf_above hn
      have hab : a = b := by
        rcases lt_trichotomy a b with hlt | heq | hlt
        · refine absurd (h a) ?_
          rw [memory_read_below (m := (b, w) :: n) (p := a)]
          · exact nonempty_read hm
          · intro c hc
            rcases List.mem_cons.mp hc with rfl | hc
            · exact hlt
            · exact lt_trans hlt (hn' c hc)
        · exact heq
        · refine absurd (h b).symm ?_
          rw [memory_read_below (m := (a, v) :: m) (p := b)]
          · exact nonempty_read hn
          · intro c hc
            rcases List.mem_cons.mp hc with rfl | hc
            · exact hlt
            · exact lt_trans hlt (hm' c hc)
      subst hab
      have hvw : v = w := by simpa [memory_read_cons] using h a
      subst hvw
      congr 1
      refine ih (wf_tail hm) (wf_tail hn) fun p => ?_
      by_cases hp : a = p
      · subst hp; rw [memory_read_below hm', memory_read_below hn']
      · simpa [memory_read_cons, hp] using h p

/-! ## Filling and scrambling -/

theorem fill_wf {m : Memory} (hm : m.wf) (b : Byte) {ps : List Nat} (hp : ∀ p ∈ ps, p < msgcap) :
    (m.fill b ps).wf := by
  induction ps generalizing m with
  | nil => exact hm
  | cons p ps ih =>
    exact ih (write_wf hm (hp p (by simp)) b) fun q hq => hp q (by simp [hq])

/-- After a fill the positions of the list read as the byte, the others as before. -/
theorem read_fill {m : Memory} (hm : m.wf) (b : Byte) {ps : List Nat} (hp : ∀ p ∈ ps, p < msgcap)
    (a : Nat) : (m.fill b ps).read a = if a ∈ ps then b else m.read a := by
  induction ps generalizing m with
  | nil => simp [Memory.fill]
  | cons p ps ih =>
    have hw := write_wf hm (hp p (by simp)) b
    rw [Memory.fill, ih hw fun q hq => hp q (by simp [hq]), read_write hm]
    by_cases h1 : a ∈ ps <;> by_cases h2 : a = p <;> simp [h1, h2]

theorem scrambleAt_wf {m : Memory} (hm : m.wf) {ps : List Nat} (hp : ∀ p ∈ ps, p < msgcap) :
    (scrambleAt ps m).wf := by
  induction ps generalizing m with
  | nil => exact hm
  | cons p ps ih =>
    exact ih (write_wf hm (hp p (by simp)) _) fun q hq => hp q (by simp [hq])

theorem winPos_lt {n : Nat} (h : n < visMax) : winPos n < msgcap := by
  unfold winPos visMax at *; split <;> simp [msgcap] <;> omega

theorem winPos_injective {m n : Nat} (h : winPos m = winPos n) : m = n := by
  unfold winPos at h; split at h <;> split at h <;> omega

/-- The copy loop keeps the canonical form while it stays in the window. -/
theorem copyLoop_wf (c : Config) {room n : Nat} (src : List Byte) {m : Memory} (hm : m.wf)
    (h : room + n ≤ visMax) : (copyLoop c room src n m).1.wf := by
  induction room generalizing src n m with
  | zero => exact hm
  | succ room ih =>
    unfold copyLoop
    split
    · exact hm
    · exact ih _ (write_wf hm (winPos_lt (by omega)) _) (by omega)

theorem mem_gapPositions {p : Nat} : p ∈ gapPositions ↔ 16 ≤ p ∧ p < 40 := by
  simp [gapPositions, List.mem_range'_1]

theorem mem_scramblePositions {p : Nat} : p ∈ scramblePositions ↔ p % 2 = 0 ∧ p < 25 := by
  simp only [scramblePositions, List.mem_map, List.mem_range]
  constructor
  · rintro ⟨k, hk, rfl⟩; omega
  · rintro ⟨h1, h2⟩; exact ⟨p / 2, by omega, by omega⟩

theorem gapPositions_lt {p : Nat} (h : p ∈ gapPositions) : p < msgcap := by
  have := mem_gapPositions.mp h
  simp only [msgcap]; omega

theorem scramblePositions_lt {p : Nat} (h : p ∈ scramblePositions) : p < msgcap := by
  have := mem_scramblePositions.mp h
  simp only [msgcap]; omega

/-- The buffer before the scramble: filled, written from the source, its gap blanked. -/
theorem encodeBuffer_fst (c : Config) (src : List Byte) (m : Memory) :
    (encodeBuffer c src m).1 =
      Memory.fill blankCode gapPositions
        (copyLoop c visMax src 0 (Memory.fill fillCode (List.range msgcap) m)).1 := by
  simp only [encodeBuffer]

theorem encodeBuffer_wf (c : Config) (src : List Byte) {m : Memory} (hm : m.wf) :
    (encodeBuffer c src m).1.wf := by
  have h0 := fill_wf hm fillCode (ps := List.range msgcap) fun p hp => List.mem_range.mp hp
  have h1 := copyLoop_wf c (room := visMax) (n := 0) src h0 (by omega)
  rw [encodeBuffer_fst]
  exact fill_wf h1 blankCode fun p hp => gapPositions_lt hp

/-- What `TEXT_ENCODE` leaves in the buffer. -/
theorem textEncode_msg (s : State) (src : List Byte) (scramble : Bool) :
    (s.textEncode src scramble).msg =
      if scramble then scrambleAt scramblePositions (encodeBuffer s.cfg src s.msg).1
      else (encodeBuffer s.cfg src s.msg).1 := rfl

/-- `TEXT_ENCODE` keeps the canonical form. -/
theorem textEncode_wf (s : State) (src : List Byte) (scramble : Bool) (h : s.msg.wf) :
    (s.textEncode src scramble).msg.wf := by
  have hw := encodeBuffer_wf s.cfg src h
  rw [textEncode_msg]
  split
  · exact scrambleAt_wf hw fun p hp => scramblePositions_lt hp
  · exact hw

theorem reset_memory_wf : State.reset.msg.wf := wf_nil

end Sys2Proof.Machine
end

