-- ==== Sys2Proof/Laws/PerInstr.lean ====
section
/-! SUPPORT. A statement about each instruction as syntax: its encoding begins with its number in
spec/opcode_table.json, in bits 2:0 of the first byte. -/

namespace Sys2Proof.Laws

/-- The number of an instruction in its format (30_encoding.md R84, R85). -/
def tableCode : Instr → Nat
  | .pause => 0
  | .clear => 1
  | .setEntryMode => 2
  | .setDisplayControl => 3
  | .setFunction => 4
  | .writeNextChar => 5
  | .returnHome => 6
  | .init _ => 0
  | .showScore _ => 1
  | .showMessage _ _ => 2
  | .clearLcd => 3
  | .clearSegments => 4
  | .pollLcd => 5

/-- The first byte of the encoding holds the number of the table. -/
def CodeInFirstByte.Statement (i : Instr) : Prop :=
  ∃ b bs, encode i = b :: bs ∧ codeOf b = tableCode i

theorem CodeInFirstByte.pause : CodeInFirstByte.Statement .pause := ⟨_, _, rfl, rfl⟩

theorem CodeInFirstByte.clear : CodeInFirstByte.Statement .clear := ⟨_, _, rfl, rfl⟩

theorem CodeInFirstByte.setEntryMode : CodeInFirstByte.Statement .setEntryMode :=
  ⟨_, _, rfl, rfl⟩

theorem CodeInFirstByte.setDisplayControl : CodeInFirstByte.Statement .setDisplayControl :=
  ⟨_, _, rfl, rfl⟩

theorem CodeInFirstByte.setFunction : CodeInFirstByte.Statement .setFunction :=
  ⟨_, _, rfl, rfl⟩

theorem CodeInFirstByte.writeNextChar : CodeInFirstByte.Statement .writeNextChar :=
  ⟨_, _, rfl, rfl⟩

theorem CodeInFirstByte.returnHome : CodeInFirstByte.Statement .returnHome :=
  ⟨_, _, rfl, rfl⟩

theorem CodeInFirstByte.init (pins : PinMap) : CodeInFirstByte.Statement (.init pins) :=
  ⟨_, _, rfl, rfl⟩

theorem CodeInFirstByte.showScore (score : Score) : CodeInFirstByte.Statement (.showScore score) :=
  ⟨_, _, rfl, rfl⟩

theorem CodeInFirstByte.showMessage (src : List Byte) (highScore : Bool) :
    CodeInFirstByte.Statement (.showMessage src highScore) := ⟨_, _, rfl, rfl⟩

theorem CodeInFirstByte.clearLcd : CodeInFirstByte.Statement .clearLcd := ⟨_, _, rfl, rfl⟩

theorem CodeInFirstByte.clearSegments : CodeInFirstByte.Statement .clearSegments :=
  ⟨_, _, rfl, rfl⟩

theorem CodeInFirstByte.pollLcd : CodeInFirstByte.Statement .pollLcd := ⟨_, _, rfl, rfl⟩

end Sys2Proof.Laws
end

