-- ==== Sys2Proof/Laws/PowerOn.lean ====
section
/-! SUPPORT. What the power-on state holds: the values the spec gives, and the widths of those it
leaves unspecified. -/

namespace Sys2Proof.Machine

@[simp] theorem length_entries {α : Type} (w : Nat) (f : Nat → α) : (entries w f).length = w := by
  simp [entries]

/-- A loaded buffer is in the one form a memory has. -/
theorem load_wf (v : Nat → Byte) : ∀ ps : List Nat, (∀ p ∈ ps, p < msgcap) → (Memory.load v ps).wf
  | [], _ => by simp [Memory.load, Memory.wf]
  | p :: ps, h =>
    write_wf (load_wf v ps fun q hq => h q (by simp [hq])) (h p (by simp)) _

/-- A loaded buffer reads at each of its positions the byte it was given. -/
theorem read_load (v : Nat → Byte) (a : Nat) :
    ∀ ps : List Nat, (∀ p ∈ ps, p < msgcap) →
      (Memory.load v ps).read a = if a ∈ ps then v a else unlistedByte
  | [], _ => rfl
  | p :: ps, h => by
    have hps : ∀ q ∈ ps, q < msgcap := fun q hq => h q (by simp [hq])
    rw [Memory.load, read_write (load_wf v ps hps), read_load v a ps hps]
    by_cases ha : a = p <;> simp [ha]

theorem ofBytes_wf (v : Nat → Byte) : (Memory.ofBytes v).wf := by
  unfold Memory.ofBytes
  exact load_wf v _ fun p hp => List.mem_range.mp hp

/-- Every position reads the byte it was given, and nothing stands outside the buffer. -/
theorem read_ofBytes (v : Nat → Byte) (a : Nat) :
    (Memory.ofBytes v).read a = if a < msgcap then v a else unlistedByte := by
  unfold Memory.ofBytes
  rw [read_load v a _ fun p hp => List.mem_range.mp hp]
  simp only [List.mem_range]

section
variable (u : State)

@[simp] theorem powerOnFrom_cfg : (State.powerOnFrom u).cfg = Config.platform := rfl
@[simp] theorem powerOnFrom_host : (State.powerOnFrom u).host = [] := rfl
@[simp] theorem powerOnFrom_pins : (State.powerOnFrom u).pins = u.pins := rfl
@[simp] theorem powerOnFrom_x :
    (State.powerOnFrom u).x = entries Config.platform.imageLen u.getReg := rfl
@[simp] theorem powerOnFrom_msg :
    (State.powerOnFrom u).msg = Memory.ofBytes u.msg.read := rfl
@[simp] theorem powerOnFrom_sr : (State.powerOnFrom u).sr =
    entries (8 * Config.platform.imageLen) fun k => u.sr.getD k false := rfl
@[simp] theorem powerOnFrom_out : (State.powerOnFrom u).out =
    entries (8 * Config.platform.imageLen) fun k => u.out.getD k false := rfl
@[simp] theorem powerOnFrom_driven : (State.powerOnFrom u).driven = false := rfl
@[simp] theorem powerOnFrom_initialized : (State.powerOnFrom u).initialized = false := rfl
@[simp] theorem powerOnFrom_irqHold : (State.powerOnFrom u).irqHold = false := rfl
@[simp] theorem powerOnFrom_wire : (State.powerOnFrom u).wire = [] := rfl
@[simp] theorem powerOnFrom_frames : (State.powerOnFrom u).frames = [] := rfl

end

end Sys2Proof.Machine
end

