-- ==== Sys2Proof/Laws/Queue.lean ====
section
/-! SUPPORT. What the queue operations do: the search for an empty slot, the shift, `ENQUEUE`,
`PULSE_ENABLE`, the drain step and `POLL_LCD`. -/

namespace Sys2Proof.Machine

/-- The slots after a shift (42_lcd_queue.md R152). -/
theorem shiftQueue_get (q : Vector LcdOp qcap) (i : Nat) (h : i < qcap) :
    (shiftQueue q)[i] = if h' : i + 1 < qcap then q[i + 1] else .pause := by
  simp [shiftQueue]

/-- The search finds the least empty slot. -/
theorem firstEmpty_some {q : Vector LcdOp qcap} {i : Fin qcap} (h : firstEmpty q = some i) :
    q[i] = .pause ∧ ∀ j : Fin qcap, j < i → q[j] ≠ .pause := by
  unfold firstEmpty at h
  have hp := List.find?_some h
  refine ⟨by simpa using hp, fun j hj => ?_⟩
  rw [List.find?_eq_some_iff_getElem] at h
  obtain ⟨-, n, hn, hi, hlt⟩ := h
  have hn' : n = i.val := by
    have := congrArg Fin.val hi
    simpa using this
  have hj' := hlt j.val (by rw [hn']; exact hj)
  simpa using hj'

/-- The search fails exactly on a queue without an empty slot. -/
theorem firstEmpty_none {q : Vector LcdOp qcap} :
    firstEmpty q = none ↔ ∀ i : Fin qcap, q[i] ≠ .pause := by
  simp [firstEmpty, List.find?_eq_none]

/-- All that `ENQUEUE` can do. -/
theorem enqueue_cases (s : State) (op : LcdOp) (mode : EnqueueMode) :
    (∃ i : Fin qcap, s.q[i] = .pause ∧ (∀ j : Fin qcap, j < i → s.q[j] ≠ .pause) ∧
      s.enqueue op mode = { s with q := s.q.set i.val op, armed := armAfter mode i.val s.armed }) ∨
    ((∀ i : Fin qcap, s.q[i] ≠ .pause) ∧ s.enqueue op mode = { s with ovf := true }) := by
  unfold State.enqueue
  cases h : firstEmpty s.q with
  | none => exact .inr ⟨firstEmpty_none.mp h, rfl⟩
  | some i => exact .inl ⟨i, (firstEmpty_some h).1, (firstEmpty_some h).2, rfl⟩

/-- `s` and `t` agree on every field but the queue and its two flags. -/
theorem enqueue_frame (s : State) (op : LcdOp) (mode : EnqueueMode) :
    ∃ q armed ovf, s.enqueue op mode = { s with q := q, armed := armed, ovf := ovf } := by
  rcases enqueue_cases s op mode with ⟨i, -, -, h⟩ | ⟨-, h⟩
  · exact ⟨_, _, s.ovf, h⟩
  · exact ⟨s.q, s.armed, true, h⟩

@[simp] theorem enqueue_cfg (s : State) (op : LcdOp) (mode : EnqueueMode) :
    (s.enqueue op mode).cfg = s.cfg := by
  obtain ⟨q, a, o, h⟩ := enqueue_frame s op mode; rw [h]

/-- Placing an entry in a given slot: the least empty one. -/
theorem enqueue_at {s : State} (op : LcdOp) (mode : EnqueueMode) {i : Fin qcap}
    (hi : s.q[i] = .pause) (hl : ∀ j : Fin qcap, j < i → s.q[j] ≠ .pause) :
    s.enqueue op mode =
      { s with q := s.q.set i.val op, armed := armAfter mode i.val s.armed } := by
  rcases enqueue_cases s op mode with ⟨k, hk, hkl, h⟩ | ⟨hn, -⟩
  · have : k = i := by
      rcases lt_trichotomy k i with hlt | heq | hlt
      · exact absurd hk (hl k hlt)
      · exact heq
      · exact absurd hi (hkl i hlt)
    subst this; exact h
  · exact absurd hi (hn i)

/-! ## INIT -/

/-- `ENQUEUE` where the least empty slot is known (42_lcd_queue.md R140 to R142). -/
theorem enqueue_of_firstEmpty {s : State} {i : Fin qcap} (h : firstEmpty s.q = some i) (op : LcdOp)
    (mode : EnqueueMode) :
    s.enqueue op mode =
      { s with q := s.q.set i.val op i.isLt, armed := armAfter mode i.val s.armed } := by
  unfold State.enqueue
  simp only [h]

/-- The four entries of `INIT` on an empty queue (44_facade.md R200, R202). -/
theorem enqueue_powerOn (s : State) (hq : s.q = emptyQueue) :
    (((s.enqueue .clear .hold).enqueue .setEntryMode .hold).enqueue .setDisplayControl
      .hold).enqueue .setFunction .forceActivate = { s with q := powerOnQueue, armed := true } := by
  rw [enqueue_of_firstEmpty (s := s) (i := 0) (by rw [hq]; decide) .clear .hold,
    enqueue_of_firstEmpty (i := 1) (by simp only [hq]; decide) .setEntryMode .hold,
    enqueue_of_firstEmpty (i := 2) (by simp only [hq]; decide) .setDisplayControl .hold,
    enqueue_of_firstEmpty (i := 3) (by simp only [hq]; decide) .setFunction .forceActivate]
  have h : (((emptyQueue.set 0 .clear).set 1 .setEntryMode).set 2 .setDisplayControl).set 3
      .setFunction = powerOnQueue := by decide
  simp only [hq, armAfter]
  rw [← h]
  rfl

/-- `INIT` as one update of the state after the lines were set (44_facade.md R200, R201). -/
theorem execInit_eq (p : PinMap) (s : State) :
    execInit p s = .next { s.busInit p with
      x := List.replicate s.cfg.imageLen 0x00#8
      q := powerOnQueue
      armed := true
      msg := []
      messageProgress := 0
      messageLength := 0
      status := .ok
      ovf := false
      initialized := true
      irqHold := false } := by
  unfold execInit
  rw [enqueue_powerOn _ rfl, busInit_eq]
  rfl

/-! ## PULSE_ENABLE and the opcodes -/

/-- The fields that no LCD opcode but `PAUSE` and `WRITE_NEXT_CHAR` may touch besides the image,
the lines, the chain and the traces. -/
structure OpcodeFrame (s t : State) : Prop where
  cfg : t.cfg = s.cfg
  host : t.host = s.host
  pins : t.pins = s.pins
  driven : t.driven = s.driven
  q : t.q = s.q
  armed : t.armed = s.armed
  msg : t.msg = s.msg
  messageProgress : t.messageProgress = s.messageProgress
  messageLength : t.messageLength = s.messageLength
  status : t.status = s.status
  ovf : t.ovf = s.ovf
  initialized : t.initialized = s.initialized
  irqHold : t.irqHold = s.irqHold

theorem OpcodeFrame.trans {s t u : State} (h : OpcodeFrame s t) (k : OpcodeFrame t u) :
    OpcodeFrame s u :=
  ⟨k.1.trans h.1, k.2.trans h.2, k.3.trans h.3, k.4.trans h.4, k.5.trans h.5, k.6.trans h.6,
    k.7.trans h.7, k.8.trans h.8, k.9.trans h.9, k.10.trans h.10, k.11.trans h.11,
    k.12.trans h.12, k.13.trans h.13⟩

theorem setReg_opcodeFrame (s : State) (i : Nat) (v : Byte) : OpcodeFrame s (s.setReg i v) :=
  ⟨rfl, rfl, rfl, rfl, rfl, rfl, rfl, rfl, rfl, rfl, rfl, rfl, rfl⟩

theorem refresh_opcodeFrame (s : State) : OpcodeFrame s s.refresh :=
  have h := refresh_frame s
  ⟨h.1, h.2, h.3, h.4, h.6, h.7, h.8, h.9, h.10, h.11, h.12, h.13, h.14⟩

theorem pulseEnable_opcodeFrame (s : State) : OpcodeFrame s s.pulseEnable :=
  (((setReg_opcodeFrame s _ _).trans (refresh_opcodeFrame _)).trans
    ((setReg_opcodeFrame _ _ _).trans (refresh_opcodeFrame _))).trans
    ((setReg_opcodeFrame _ _ _).trans (refresh_opcodeFrame _))

/-- An instruction opcode leaves every field of the frame alone (42_lcd_queue.md R157). -/
theorem sendControl_opcodeFrame (s : State) (w : Byte) : OpcodeFrame s (s.sendControl w) :=
  (setReg_opcodeFrame s _ _).trans (pulseEnable_opcodeFrame _)

/-- A character moves the cursor one on and otherwise leaves the frame alone (42_lcd_queue.md
R165). -/
theorem sendChar_frame (s : State) (ch : Byte) :
    ∃ t, OpcodeFrame s t ∧ s.sendChar ch = t.advanceCursor :=
  ⟨_, ((setReg_opcodeFrame s _ _).trans (setReg_opcodeFrame _ _ _)).trans
    (pulseEnable_opcodeFrame _), rfl⟩

/-! ## The drain step and POLL_LCD -/

/-- Executing an opcode answers a next state, or faults on a character outside the buffer. -/
theorem executeOp_cases (op : LcdOp) (s : State) :
    (∃ t, executeOp op s = .next t) ∨
    (op = .writeNextChar ∧ msgcap ≤ s.messageProgress ∧
      executeOp op s = .fault (.messageOutOfRange s.messageProgress)) := by
  cases op
  case writeNextChar =>
    by_cases h : s.messageProgress < msgcap
    · exact .inl ⟨s.sendChar (s.msg.read s.messageProgress), by
        simp only [executeOp, execWriteNextChar, State.memRead, if_pos h]⟩
    · exact .inr ⟨rfl, by omega, by
        simp only [executeOp, execWriteNextChar, State.memRead, if_neg h]⟩
  all_goals exact .inl ⟨_, rfl⟩

/-- All that a drain step can answer with a next state. -/
theorem drainOne_next {s t : State} (h : drainOne s = .next t) :
    (s.armed = false ∧ t = s) ∨
    (s.armed = true ∧ ∃ u, executeOp s.q[0] s = .next u ∧ t = u.settleQueue s.q[0]) := by
  unfold drainOne at h
  by_cases ha : s.armed = true
  · rw [if_pos ha] at h
    cases hu : executeOp s.q[0] s with
    | next u => simp only [hu] at h; cases h; exact .inr ⟨ha, u, rfl, rfl⟩
    | fault r => simp only [hu] at h; cases h
    | refused r => simp only [hu] at h; cases h
  · rw [if_neg ha] at h
    cases h
    exact .inl ⟨by simpa using ha, rfl⟩

/-- All that `POLL_LCD` can answer with a next state. -/
theorem execPollLcd_next {s t : State} (h : execPollLcd s = .next t) :
    s.initialized = true ∧ ∃ u, drainOne (s.setIrqHold true) = .next u ∧
      t = (u.setIrqHold false).setStatus .ok := by
  unfold execPollLcd whenInitialized at h
  by_cases hi : s.initialized = true
  · rw [if_pos hi] at h
    cases hu : drainOne (s.setIrqHold true) with
    | next u => simp only [hu] at h; cases h; exact ⟨hi, u, rfl, rfl⟩
    | fault r => simp only [hu] at h; cases h
    | refused r => simp only [hu] at h; cases h
  · rw [if_neg hi] at h
    cases h

/-- A command that runs only after `INIT` and answers a next state found the flag set. -/
theorem whenInitialized_next {s t : State} {r : Host.Outcome State Fault Refusal}
    (h : whenInitialized s r = .next t) : s.initialized = true ∧ r = .next t := by
  unfold whenInitialized at h
  split at h
  · exact ⟨‹_›, h⟩
  · cases h

/-- All that a step can answer with a next state: nothing was issued, or the command at the front
of the channel ran. -/
theorem step_next {s t : State} (h : step s = .next t) :
    (s.host = [] ∧ t = s) ∨
    (∃ i rest, decode .fHost s.host = .ok (i, rest) ∧ exec i { s with host := rest } = .next t) := by
  unfold step fetch at h
  cases hs : s.host with
  | nil =>
    simp only [hs] at h
    cases h
    exact .inl ⟨rfl, rfl⟩
  | cons b bs =>
    simp only [hs] at h
    cases hd : decode .fHost (b :: bs) with
    | error r => simp only [hd] at h; cases h
    | ok p =>
      obtain ⟨i, rest⟩ := p
      simp only [hd] at h
      exact .inr ⟨i, rest, rfl, h⟩

end Sys2Proof.Machine
end

