-- ==== Sys2Proof/Tests/Slice0.lean ====
section
/-! SUPPORT. Tests: the check of well-formedness, every constructor's decoding on a word written out from
the spec's tables, the spec's own vectors (95_test_vectors.md) for each instruction under REF, and
for every statement with hypotheses a concrete state and operands that meet them all. -/

namespace Sys2Proof.Machine

-- One theorem at a time: checked side by side they ask for more threads than a module build may start.
set_option Elab.async false

/-! ## Well-formedness -/

theorem test_wellFormed_accepts_message : wellFormed (.showMessage [0x48#8, 0x49#8] true) = true := by
  decide

theorem test_wellFormed_refuses_inner_terminator :
    wellFormed (.showMessage [0x48#8, 0x00#8, 0x49#8] false) = false := by decide

/-! ## Decoding: 30_encoding.md R84 (queue slots) and R85 (host commands) -/

theorem test_decode_pause : decode .fOp [0b000#8] = .ok (.pause, []) := by decide
theorem test_decode_clear : decode .fOp [0b001#8] = .ok (.clear, []) := by decide
theorem test_decode_setEntryMode : decode .fOp [0b010#8] = .ok (.setEntryMode, []) := by decide
theorem test_decode_setDisplayControl :
    decode .fOp [0b011#8] = .ok (.setDisplayControl, []) := by decide
theorem test_decode_setFunction : decode .fOp [0b100#8] = .ok (.setFunction, []) := by decide
theorem test_decode_writeNextChar : decode .fOp [0b101#8] = .ok (.writeNextChar, []) := by decide
theorem test_decode_returnHome : decode .fOp [0b110#8] = .ok (.returnHome, []) := by decide
theorem test_decode_init :
    decode .fHost [0b000#8, 1#8, 2#8, 3#8, 4#8, 5#8] = .ok (.init ⟨1#8, 2#8, 3#8, 4#8, 5#8⟩, []) := by
  decide
theorem test_decode_showScore :
    decode .fHost [0b001#8, 0xD2#8, 0x04#8] = .ok (.showScore 1234#16, []) := by decide
theorem test_decode_showMessage :
    decode .fHost [0b010#8, 0x01#8, 0x48#8, 0x49#8, 0x00#8, 0x05#8] =
      .ok (.showMessage [0x48#8, 0x49#8] true, [0x05#8]) := by decide
theorem test_decode_clearLcd : decode .fHost [0b011#8] = .ok (.clearLcd, []) := by decide
theorem test_decode_clearSegments : decode .fHost [0b100#8] = .ok (.clearSegments, []) := by decide
theorem test_decode_pollLcd : decode .fHost [0b101#8] = .ok (.pollLcd, []) := by decide

/-- Vector F5: command code 6 is refused; as a table word it is the slot `RETURN_HOME` (log 4). -/
theorem test_tableWord_six :
    decode .fHost [0b110#8] = .error (.reservedCommand 6) ∧
      decodeTableWord 8 6 = some .returnHome := by decide

/-! ## A small state under REF: the "settled" state of 95_test_vectors.md -/

def settled : State where
  cfg := Config.ref
  host := []
  pins := resetPins
  driven := true
  pin := idlePins Config.ref
  x := [0x00#8, 0x00#8, 0x70#8, 0x00#8]
  q := emptyQueue
  armed := false
  msg := []
  messageProgress := 0
  messageLength := 0
  status := .ok
  ovf := false
  initialized := true
  irqHold := false
  sr := List.replicate 32 true
  out := List.replicate 32 false
  wire := busInitEvents Config.ref
  frames := []

/-- The settled state with one entry at the queue front, armed. -/
def withFront (op : LcdOp) : State := { settled with q := emptyQueue.set 0 op, armed := true }

/-- A queue of 20 entries. -/
def fullQueue : Vector LcdOp qcap := Vector.replicate qcap .clear

/-- A field of the next state, none where there is none. -/
def after {α : Type} (f : State → α) : Host.Outcome State Fault Refusal → Option α
  | .next t => some (f t)
  | .fault _ => none
  | .refused _ => none

/-! ## The spec's vectors, one step each -/

/-- Vector B2: the data bits of a refresh in the order sent. -/
theorem test_refresh_bit_order :
    imageBits [0xF2#8, 0x66#8, 0x00#8, 0x00#8] =
      ([0,0,0,0,0,0,0,0, 0,0,0,0,0,0,0,0, 0,1,1,0,0,1,1,0, 0,1,0,0,1,1,1,1] : List Nat).map
        (· == 1) := by decide +kernel

/-- Vector B3: the outputs of the chain after that refresh. -/
theorem test_refresh_outputs :
    ({ settled with x := [0xF2#8, 0x66#8, 0x00#8, 0x00#8] }.refresh).out =
      ([1,1,1,1,0,0,1,0, 0,1,1,0,0,1,1,0, 0,0,0,0,0,0,0,0, 0,0,0,0,0,0,0,0] : List Nat).map
        (· == 1) := by decide +kernel

/-- Vector F1. -/
theorem test_init :
    after (fun t => (t.q, t.armed, t.x, t.wire.length, t.initialized))
      (exec (.init resetPins) { settled with initialized := false, wire := [] }) =
    some (powerOnQueue, true, [0x00#8, 0x00#8, 0x00#8, 0x00#8], 5, true) := by decide +kernel

/-- The assignment of the first `INIT` stays for the life of the instance (10_state.md R38). -/
theorem test_second_init_keeps_the_lines :
    after (fun t => t.pins) (exec (.init ⟨9#8, 8#8, 7#8, 6#8, 5#8⟩) settled) = some resetPins ∧
    after (fun t => t.pins)
      (exec (.init ⟨9#8, 8#8, 7#8, 6#8, 5#8⟩) { settled with initialized := false }) =
      some ⟨9#8, 8#8, 7#8, 6#8, 5#8⟩ := by decide +kernel

/-- Vector F2. -/
theorem test_poll_before_init :
    (match exec .pollLcd { settled with initialized := false } with
      | .refused r => some r
      | _ => none) = some .notInitialized := by decide +kernel

/-- Vector G24. -/
theorem test_showScore :
    after (fun t => (t.x, t.frames, t.wire.length, t.status)) (exec (.showScore 1234#16) settled) =
    some ([0xF2#8, 0x66#8, 0x70#8, 0x00#8], [[0xF2#8, 0x66#8, 0x70#8, 0x00#8]], 103, .ok) := by
  decide +kernel

/-- Vectors G5 and G15, three positions. -/
theorem test_segEncode :
    (match segEncode { Config.ref with nseg := 3 } 50#16, segEncode { Config.ref with nseg := 3 } 65535#16 with
      | .ok a, .ok b => some (a, b)
      | _, _ => none) =
    some ([0x00#8, 0xB6#8, 0xFC#8], [0xB6#8, 0xF2#8, 0xB6#8]) := by decide +kernel

/-- Vector G27. -/
theorem test_invalid_digit :
    settled.showDigits [3, 10] = { settled with status := .errInvalidDigit } := by decide +kernel

/-- Vector G25. -/
theorem test_clearSegments :
    after (fun t => t.frames)
      (exec .clearSegments { settled with x := [0xF2#8, 0x66#8, 0x02#8, 0x49#8] }) =
    some [[0x00#8, 0x00#8, 0x02#8, 0x49#8]] := by decide +kernel

/-- Vector T16 with a sequence in the last window position, and the queue of program P2. -/
theorem test_showMessage_window :
    after (fun t => (t.msg.read 49, t.msg.read 16, t.msg.read 40, t.messageLength, t.q.toList.take 4))
      (exec (.showMessage ((List.range 25).map (fun i => BitVec.ofNat 8 (0x41 + i)) ++
        [0xC3#8, 0xA4#8, 0x5A#8]) false) settled) =
    some (0xE1#8, 0x00#8, 0x51#8, 26, [.clear, .returnHome, .writeNextChar, .pause]) := by
  decide +kernel

/-- Vector T2. -/
theorem test_showMessage_scramble :
    after (fun t => (t.msg.read 0, t.msg.read 1, t.msg.read 24, t.msg.read 25, t.msg.read 26))
      (exec (.showMessage [0x48#8, 0x49#8] true) settled) =
    some (0xC8#8, 0x49#8, 0x80#8, 0x00#8, 0x00#8) := by decide +kernel

/-- Vectors Q21 and Q6. -/
theorem test_clearLcd :
    after (fun t => (t.q, t.armed, t.frames)) (exec .clearLcd settled) =
      some (emptyQueue.set 0 .clear, true, []) ∧
    after (fun t => (t.q, t.ovf)) (exec .clearLcd { settled with q := fullQueue, armed := true }) =
      some (fullQueue, true) := by decide +kernel

/-- Vector Q10. -/
theorem test_pause :
    after (fun t => (t.armed, t.frames)) (exec .pause (withFront .pause)) = some (false, []) := by
  decide +kernel

/-- Vector Q20. -/
theorem test_clear :
    after (fun t => t.frames) (exec .clear settled) =
    some [[0x00#8, 0x00#8, 0x00#8, 0x00#8], [0x00#8, 0x00#8, 0x01#8, 0x00#8],
      [0x00#8, 0x00#8, 0x00#8, 0x00#8]] := by decide +kernel

/-- Vector Q11. -/
theorem test_setEntryMode :
    after (fun t => t.frames) (exec .setEntryMode settled) =
    some [[0x00#8, 0x00#8, 0x04#8, 0x00#8], [0x00#8, 0x00#8, 0x05#8, 0x00#8],
      [0x00#8, 0x00#8, 0x04#8, 0x00#8]] := by decide +kernel

/-- Program P1, tick 3. -/
theorem test_setDisplayControl :
    after (fun t => t.frames) (exec .setDisplayControl settled) =
    some [[0x00#8, 0x00#8, 0x18#8, 0x00#8], [0x00#8, 0x00#8, 0x19#8, 0x00#8],
      [0x00#8, 0x00#8, 0x18#8, 0x00#8]] := by decide +kernel

/-- Program P1, tick 4. -/
theorem test_setFunction :
    after (fun t => t.frames) (exec .setFunction settled) =
    some [[0x00#8, 0x00#8, 0x70#8, 0x00#8], [0x00#8, 0x00#8, 0x71#8, 0x00#8],
      [0x00#8, 0x00#8, 0x70#8, 0x00#8]] := by decide +kernel

/-- Vector Q16: the top bit of the character in the control byte, the rest in the data byte. -/
theorem test_writeNextChar :
    after (fun t => (t.frames, t.messageProgress))
      (exec .writeNextChar { settled with msg := [(0, 0xE1#8)], messageLength := 2 }) =
    some ([[0x00#8, 0x00#8, 0x82#8, 0x61#8], [0x00#8, 0x00#8, 0x83#8, 0x61#8],
      [0x00#8, 0x00#8, 0x82#8, 0x61#8]], 1) := by decide +kernel

/-- Vector Q19: the data byte keeps its value. -/
theorem test_returnHome :
    after (fun t => t.frames)
      (exec .returnHome { settled with x := [0x00#8, 0x00#8, 0x70#8, 0x59#8] }) =
    some [[0x00#8, 0x00#8, 0x02#8, 0x59#8], [0x00#8, 0x00#8, 0x03#8, 0x59#8],
      [0x00#8, 0x00#8, 0x02#8, 0x59#8]] := by decide +kernel

/-- Vector Q14: the entry stays. -/
theorem test_pollLcd_stays :
    after (fun t => (t.q, t.messageProgress, t.irqHold))
      (exec .pollLcd { withFront .writeNextChar with msg := [(0, 0x48#8)], messageLength := 2 }) =
    some (emptyQueue.set 0 .writeNextChar, 1, false) := by decide +kernel

/-- Vector Q18: past the end of the message the entry sends one byte and leaves. -/
theorem test_pollLcd_leaves :
    after (fun t => (t.q, t.messageProgress, t.x))
      (exec .pollLcd { withFront .writeNextChar with messageProgress := 2, messageLength := 2 }) =
    some (emptyQueue, 3, [0x00#8, 0x00#8, 0x02#8, 0x00#8]) := by decide +kernel

/-- One step runs one command off the channel and leaves the rest on it. -/
theorem test_step_runs_one_command :
    after (fun t => (t.host, t.q.toList.take 2)) (step { settled with host := [0x03#8, 0x05#8] }) =
    some ([0x05#8], [.clear, .pause]) := by decide +kernel

/-! ## Witnesses: each meets all the hypotheses of the statement it names -/

theorem shape_settled : Shape settled := ⟨by decide, by decide, by decide, by decide⟩

theorem shape_withFront (op : LcdOp) : Shape (withFront op) :=
  ⟨shape_settled.image, shape_settled.cells, shape_settled.outputs, shape_settled.memory⟩

theorem shape_host (bs : List Byte) : Shape { settled with host := bs } :=
  ⟨shape_settled.image, shape_settled.cells, shape_settled.outputs, shape_settled.memory⟩

theorem ref_ok : Config.ref.Ok := by decide +kernel

theorem inv_settled : Inv settled where
  config := ref_ok
  reading := rfl
  initialized := rfl
  shape := shape_settled
  queue := ⟨0, by decide⟩
  frontArmed := by decide
  length := by decide
  cursor := by decide +kernel
  enableClear := by decide
  clocks := by decide
  levels := by decide
  irqHold := rfl
  status := rfl

theorem inv_withFront_clear : Inv (withFront .clear) :=
  { inv_settled with
    queue := ⟨1, by decide +kernel⟩
    frontArmed := fun _ => rfl
    cursor := by decide +kernel
    shape := shape_withFront .clear }

/-- A message of two characters at the front of the queue. -/
def streaming : State := { withFront .writeNextChar with msg := [(0, 0x48#8), (1, 0x49#8)], messageLength := 2 }

theorem inv_streaming : Inv streaming :=
  { inv_settled with
    shape := ⟨by decide, by decide, by decide, by decide⟩
    queue := ⟨1, by decide +kernel⟩
    frontArmed := fun _ => rfl
    length := by decide
    cursor := by decide +kernel }

theorem traceOk_settled : TraceOk settled where
  shape := shape_settled
  idle := by decide
  observed := by decide +kernel
  shown := by intro f h; simp [settled] at h

theorem witness_DecodeOfEncode : WellFormed (.showMessage [0x48#8] true) := by decide

theorem witness_DecodedIsWellFormed :
    decode .fHost [0x05#8, 0x03#8] = .ok (.pollLcd, [0x03#8]) ∧
      decode .fOp [0x05#8] = .ok (.writeNextChar, []) := by decide

theorem witness_StepRunsDecodedCommand :
    decode .fHost { settled with host := [0x05#8] }.host = .ok (.pollLcd, []) := by decide

theorem witness_IdleStepHoldsState : settled.host = [] := rfl

theorem witness_BytesThatAreNoCommandAreRefused :
    (({ settled with host := [0x06#8] }.host = 0x06#8 :: [] ∧ 6 ≤ codeOf 0x06#8) ∧
      ({ settled with host := [0x07#8] }.host = 0x07#8 :: [] ∧ 6 ≤ codeOf 0x07#8)) ∧
    codeOf 0x07#8 = 7 ∧
    decode .fHost { settled with host := [0x01#8, 0xD2#8] }.host = .error .truncatedOperand := by
  decide

theorem witness_CommandsBeforeInitAreRefused :
    { settled with initialized := false }.initialized = false := rfl

theorem witness_ChainActsOnRisingEdges :
    (settled.pin.sck = false ∧ 30 + 1 < settled.sr.length ∧ 0 < settled.sr.length) ∧
    settled.pin.rck = false ∧
    (¬(Line.sck = .sck ∧ false = true ∧ settled.pin.sck = false) ∧
      ¬(Line.sck = .rck ∧ false = true ∧ settled.pin.rck = false)) ∧
    (¬(Line.sdi = .sck ∧ true = true ∧ settled.pin.sck = false) ∧
      ¬(Line.sdi = .rck ∧ true = true ∧ settled.pin.rck = false)) := by decide

theorem witness_SetLineAppendsItsEvent : Line.sck ≠ Line.sdi := by decide

theorem witness_RefreshSendsTheImage : settled.x ≠ [] := by decide

theorem witness_RefreshFillsTheChain : Shape settled ∧ ClocksIdle settled :=
  ⟨shape_settled, by decide⟩

theorem witness_PulseEnableIsThreeRefreshes : Shape settled ∧ ClocksIdle settled :=
  ⟨shape_settled, by decide⟩

theorem witness_EnablePulseKeepsOtherBits :
    settled.x.length = settled.cfg.imageLen ∧ 0 ≠ settled.cfg.ctrl ∧ 3 ≠ settled.cfg.ctrl ∧
      settled.cfg.enBit.val < 8 ∧ 7 ≠ settled.cfg.enBit.val := by decide

theorem witness_ScoresWrapAround :
    (1234#16).toNat % 10 ^ settled.cfg.nseg = (34#16).toNat % 10 ^ settled.cfg.nseg := by
  decide +kernel

theorem witness_DigitsArePositional : (99 : Nat) < 10 ^ 2 ∧ (0 : Nat) < 10 ^ 0 ∧ 1 < 2 := by decide

theorem witness_LeadingZerosAreBlanked :
    (([0, 0, 0] : List Nat) ≠ [] ∧ (∀ d ∈ ([0, 0, 0] : List Nat), d < 10) ∧
      1 < blankCount [0, 0, 0] ∧ blankCount [0, 0, 0] ≤ 2) ∧
    (([0, 7, 0] : List Nat) ≠ [] ∧ (∀ d ∈ ([0, 7, 0] : List Nat), d < 10) ∧
      blankCount [0, 7, 0] + 1 < 3) := by decide

theorem witness_ShowScoreSendsThePattern :
    settled.initialized = true ∧ Shape settled ∧ ClocksIdle settled :=
  ⟨rfl, shape_settled, by decide⟩

theorem witness_InvalidDigitWritesNothing : (∀ e ∈ ([3, 9] : List Nat), e < 10) ∧ 10 ≤ 10 := by
  decide

theorem witness_PatternsReadBack : Config.ref.Ok := ref_ok

theorem witness_ClearSegmentsSendsBlanks :
    settled.initialized = true ∧ Shape settled ∧ ClocksIdle settled :=
  ⟨rfl, shape_settled, by decide⟩

theorem witness_SourceBytesByClass :
    Config.ref.Ok ∧ (32 ≤ (0x20#8).toNat ∧ (0x20#8).toNat ≤ 127) ∧
      (32 ≤ (0x7F#8).toNat ∧ (0x7F#8).toNat ≤ 127) ∧
      (0x1F#8 ≠ 0x00#8 ∧ ¬(32 ≤ (0x1F#8).toNat ∧ (0x1F#8).toNat ≤ 127) ∧
        ¬Config.ref.seqA <+: 0x1F#8 :: [] ∧ ¬Config.ref.seqO <+: 0x1F#8 :: []) ∧
      (0x80#8 ≠ 0x00#8 ∧ ¬(32 ≤ (0x80#8).toNat ∧ (0x80#8).toNat ≤ 127) ∧
        ¬Config.ref.seqA <+: 0x80#8 :: [] ∧ ¬Config.ref.seqO <+: 0x80#8 :: []) :=
  ⟨ref_ok, by decide⟩

theorem witness_PrintableTextPassesThrough :
    Config.ref.Ok ∧ ∀ b ∈ [0x20#8, 0x7F#8], 32 ≤ b.toNat ∧ b.toNat ≤ 127 :=
  ⟨ref_ok, by decide⟩

theorem witness_ShowMessageReplacesTheBuffer : settled.initialized = true ∧ settled.msg.wf :=
  ⟨rfl, by decide⟩

theorem witness_ScrambleSetsTopBitsOnly :
    settled.msg.wf ∧ (24 % 2 = 0 ∧ 24 < 25) ∧ ¬(25 % 2 = 0 ∧ 25 < 25) ∧ ¬(26 % 2 = 0 ∧ 26 < 25) ∧
      ¬(1 % 2 = 0 ∧ 1 < 25) := by decide

/-- A queue of 17 entries, the most that leaves room for a message. -/
def seventeen : Vector LcdOp qcap := Vector.ofFn fun i => if i.val < 17 then .clear else .pause

theorem witness_ShowMessageEnqueuesThree :
    (settled.initialized = true ∧ HasCount settled.q 0 ∧ 0 + 3 ≤ qcap) ∧
    ({ settled with q := seventeen }.initialized = true ∧ HasCount seventeen 17 ∧ 17 + 3 ≤ qcap) := by
  decide +kernel

/-- A queue of 19 entries, the most that leaves room for one. -/
def nineteen : Vector LcdOp qcap := Vector.ofFn fun i => if i.val < 19 then .clear else .pause

theorem witness_EnqueueAppendsAndArmsByMode :
    (0 < qcap ∧ HasCount emptyQueue 0) ∧ (19 < qcap ∧ HasCount nineteen 19) := by decide +kernel

theorem witness_FullQueueDropsEntries :
    HasCount { settled with q := fullQueue }.q qcap ∧
      { settled with q := fullQueue }.initialized = true := by decide +kernel

theorem witness_ClearLcdEnqueuesClear :
    (0 < qcap ∧ settled.initialized = true ∧ HasCount settled.q 0) ∧
    (19 < qcap ∧ { settled with q := nineteen }.initialized = true ∧
      HasCount { settled with q := nineteen }.q 19) := by decide +kernel

theorem witness_InstructionOpcodesSendTheirWord :
    (controlWord settled.cfg .clear = some 0x00#8 ∧
      controlWord settled.cfg .setEntryMode = some 0x04#8 ∧
      controlWord settled.cfg .setDisplayControl = some 0x18#8 ∧
      controlWord settled.cfg .setFunction = some 0x70#8 ∧
      controlWord settled.cfg .returnHome = some 0x02#8) ∧
    Shape settled ∧ ClocksIdle settled := ⟨by decide, shape_settled, by decide⟩

theorem witness_WriteNextCharSendsTheCharacter :
    Shape { settled with messageProgress := 49 } ∧ ClocksIdle { settled with messageProgress := 49 } ∧
      { settled with messageProgress := 49 }.messageProgress < msgcap :=
  ⟨⟨shape_settled.image, shape_settled.cells, shape_settled.outputs, shape_settled.memory⟩,
    by decide, by decide⟩

theorem witness_WriteNextCharOutsideFaults :
    msgcap ≤ { settled with messageProgress := 50 }.messageProgress := by decide

theorem witness_DrainOfDisarmedOrEmptyQueue :
    settled.armed = false ∧
      ({ settled with armed := true }.armed = true ∧ { settled with armed := true }.q = emptyQueue) :=
  ⟨rfl, rfl, rfl⟩

theorem witness_PollOfDisarmedBlock : settled.initialized = true ∧ settled.armed = false := ⟨rfl, rfl⟩

theorem witness_PollExecutesTheFront :
    ((withFront .clear).initialized = true ∧ (withFront .clear).armed = true ∧
      ∃ t, exec (instrOf (withFront .clear).q[0]) { withFront .clear with irqHold := true } = .next t) ∧
    (streaming.initialized = true ∧ streaming.armed = true ∧
      ∃ t, exec (instrOf streaming.q[0]) { streaming with irqHold := true } = .next t) :=
  ⟨⟨rfl, rfl, _, rfl⟩, rfl, rfl, _, rfl⟩

theorem witness_PollSendsThreeFramesOrNone :
    (Inv settled ∧ settled.q[0] = .pause) ∧ (Inv streaming ∧ streaming.q[0] ≠ .pause) :=
  ⟨⟨inv_settled, by decide⟩, inv_streaming, by decide +kernel⟩

theorem witness_StepKeepsTheInvariant :
    ∃ t, Inv { settled with host := [0x03#8] } ∧ step { settled with host := [0x03#8] } = .next t :=
  ⟨_, { inv_settled with shape := shape_host _ }, rfl⟩

theorem witness_InitEstablishesTheInvariant :
    ∃ t, settled.cfg.Ok ∧ settled.cfg.lenCountsGap = false ∧
      settled.sr.length = 8 * settled.cfg.imageLen ∧ settled.out.length = 8 * settled.cfg.imageLen ∧
      exec (.init resetPins) settled = .next t :=
  ⟨_, ref_ok, rfl, by decide, by decide, rfl⟩

theorem witness_NoCommandFailsAtABoundary :
    Inv { settled with host := [0x03#8] } ∧
      decode .fHost { settled with host := [0x03#8] }.host = .ok (.clearLcd, []) :=
  ⟨{ inv_settled with shape := shape_host _ }, by decide⟩

theorem witness_StepKeepsTheTracesInAgreement :
    ∃ t, TraceOk { settled with host := [0x04#8] } ∧ step { settled with host := [0x04#8] } = .next t :=
  ⟨_, { traceOk_settled with shape := shape_host _ }, rfl⟩

theorem witness_StepKeepsTheConfiguration :
    ∃ t, step { settled with host := [0x04#8] } = .next t ∧
      { settled with host := [0x04#8] }.x.length = { settled with host := [0x04#8] }.cfg.imageLen :=
  ⟨_, rfl, by decide⟩

theorem witness_OnlyPauseDisarms :
    ∃ t, step { withFront .pause with host := [0x05#8] } = .next t ∧
      { withFront .pause with host := [0x05#8] }.armed = true ∧ t.armed = false :=
  ⟨_, rfl, rfl, rfl⟩

theorem witness_OverflowIsSticky :
    (∃ t, step { settled with ovf := true, host := [0x00#8, 0#8, 0#8, 0#8, 0#8, 0#8] } = .next t ∧
      { settled with ovf := true }.ovf = true ∧ t.ovf = false) ∧
    (∃ t, step { settled with q := fullQueue, host := [0x03#8] } = .next t ∧
      settled.ovf = false ∧ t.ovf = true) :=
  ⟨⟨_, rfl, rfl, by decide +kernel⟩, _, rfl, rfl, by decide +kernel⟩

theorem witness_DisplayPathsAreDisjoint :
    (∃ t, exec .pollLcd (withFront .clear) = .next t) ∧ (∃ t, exec .clearSegments settled = .next t) ∧
      ∃ t, exec (.showScore 7#16) settled = .next t := ⟨⟨_, rfl⟩, ⟨_, rfl⟩, _, rfl⟩

theorem witness_PowerOnSequenceIsSent : ∃ t, exec (.init resetPins) settled = .next t := ⟨_, rfl⟩

theorem witness_MessageStreamsInOrder :
    Inv streaming ∧ streaming.q[0] = .writeNextChar ∧ streaming.messageProgress = 0 ∧
      1 ≤ streaming.messageLength ∧ 2 ≤ streaming.messageLength :=
  ⟨inv_streaming, by decide +kernel, rfl, by decide, by decide⟩

theorem witness_ShowMessageIsSentInTime :
    ∃ t, Inv settled ∧ settled.q = emptyQueue ∧ settled.armed = false ∧
      exec (.showMessage [0x48#8] false) settled = .next t := ⟨_, inv_settled, rfl, rfl, rfl⟩

theorem witness_QueueDrainsWithinBound : Inv streaming := inv_streaming

theorem witness_ClearLcdDoesNotPreempt :
    ∃ t u, Inv streaming ∧ streaming.q[0] ≠ .pause ∧ exec .clearLcd streaming = .next t ∧
      exec .pollLcd streaming = .next u := ⟨_, _, inv_streaming, by decide +kernel, rfl, rfl⟩

/-- The settled state's block before its first `INIT`. -/
def unstarted : State := { settled with driven := false, initialized := false, armed := true, wire := [] }

theorem witness_FirstInitStartsTheBlock :
    PowerOn unstarted ∧ unstarted.cfg.Ok ∧ unstarted.cfg.lenCountsGap = false :=
  ⟨⟨rfl, rfl, rfl, ⟨by decide, by decide, by decide, by decide⟩, rfl, rfl⟩, ref_ok, rfl⟩

theorem witness_OnlyInitStartsTheBlock :
    (step unstarted = .next unstarted ∧ unstarted.initialized = false) ∧
    (∃ t, step { unstarted with host := [0x00#8, 9#8, 8#8, 7#8, 6#8, 5#8] } = .next t ∧
      unstarted.initialized = false) ∧
    ∃ t, step { settled with host := [0x00#8, 9#8, 8#8, 7#8, 6#8, 5#8] } = .next t ∧
      settled.initialized = true ∧ settled.driven = true :=
  ⟨⟨rfl, rfl⟩, ⟨_, rfl, rfl⟩, _, rfl, rfl, rfl⟩

end Sys2Proof.Machine
end

section
/-! SUPPORT. What a register write, a strobe, an `ENQUEUE`, a dequeue, a score and a message
leave: one rule each, for the proofs about commands and steps. -/

namespace Sys2Proof.Machine

/-! ## The platform's configuration -/

/-- The configuration of `State.reset` meets the constraints (log 1). -/
theorem platform_ok : Config.platform.Ok := by
  unfold Config.platform
  split
  · assumption
  · decide +kernel

/-- The configuration of `State.reset` has the reading of 90_conflicts.md C5 (log 12). -/
theorem platform_lenCountsGap : Config.platform.lenCountsGap = false := by
  unfold Config.platform
  split <;> rfl

/-! ## The register image -/

theorem getReg_setReg_same {s : State} {i : Nat} (h : i < s.x.length) (v : Byte) :
    (s.setReg i v).getReg i = v := by
  simp [State.getReg, h]

theorem getReg_setReg_ne (s : State) {i j : Nat} (h : i ≠ j) (v : Byte) :
    (s.setReg i v).getReg j = s.getReg j := by
  simp [State.getReg, List.getElem?_set_ne h]

@[simp] theorem getReg_refresh (s : State) (i : Nat) : s.refresh.getReg i = s.getReg i := by
  simp [State.getReg]

theorem setRegs_opcodeFrame (s : State) (i : Nat) (bs : List Byte) :
    OpcodeFrame s (s.setRegs i bs) := by
  induction bs generalizing s i with
  | nil => exact ⟨rfl, rfl, rfl, rfl, rfl, rfl, rfl, rfl, rfl, rfl, rfl, rfl, rfl⟩
  | cons b bs ih => exact (setReg_opcodeFrame s i b).trans (ih _ _)

/-- A run of segment writes leaves the entries after it. -/
theorem getReg_setRegs_of_le (s : State) {i j : Nat} (bs : List Byte) (h : i + bs.length ≤ j) :
    (s.setRegs i bs).getReg j = s.getReg j := by
  induction bs generalizing s i with
  | nil => rfl
  | cons b bs ih =>
    rw [List.length_cons] at h
    rw [State.setRegs, ih _ (by omega), getReg_setReg_ne s (by omega)]

/-- The enable bit is clear after it was forced low. -/
theorem enableLow_and_enMask (c : Config) (v : Byte) : enableLow c v &&& c.enMask = 0x00#8 := by
  rw [enableLow, BitVec.and_assoc, BitVec.and_comm (~~~_), BitVec.and_not_self]
  exact BitVec.and_zero

/-- An enable pulse ends with the enable bit clear (42_lcd_queue.md R155, 10_state.md R39). -/
theorem pulseEnable_enableClear {s : State} (h : s.cfg.ctrl < s.x.length) :
    s.pulseEnable.getReg s.cfg.ctrl &&& s.cfg.enMask = 0x00#8 := by
  unfold State.pulseEnable
  simp only [getReg_refresh, refresh_cfg, setReg_cfg]
  rw [getReg_setReg_same (by simpa using h), enableLow_and_enMask]

/-! ## Counting the entries of the queue -/

theorem writeEntries_le (q : Vector LcdOp qcap) : writeEntries q ≤ qcap :=
  List.countP_le_length.trans_eq q.length_toList

/-- An entry that is no `WRITE_NEXT_CHAR`, placed in an empty slot, adds none. -/
theorem writeEntries_set {q : Vector LcdOp qcap} {i : Fin qcap} {op : LcdOp} (hi : q[i] = .pause)
    (hop : op ≠ .writeNextChar) : writeEntries (q.set i.val op) = writeEntries q := by
  have hi' : q[i.val] = .pause := hi
  simp [writeEntries, Vector.toList_set, List.countP_set, Vector.getElem_toList, hi', hop]

theorem toList_shiftQueue (q : Vector LcdOp qcap) :
    (shiftQueue q).toList = q.toList.tail ++ [.pause] := by
  refine List.ext_getElem (by simp) fun i h1 h2 => ?_
  rw [Vector.getElem_toList, shiftQueue_get _ _ (by simpa using h1), List.getElem_append]
  simp only [List.length_tail, Vector.length_toList, List.getElem_tail, Vector.getElem_toList,
    List.getElem_singleton, qcap]
  by_cases h : i + 1 < 20
  · rw [dif_pos h, dif_pos (by omega)]
  · rw [dif_neg h, dif_neg (by omega)]

/-- A dequeue takes the front's `WRITE_NEXT_CHAR` off the count, where the front is one. -/
theorem writeEntries_shiftQueue (q : Vector LcdOp qcap) :
    writeEntries (shiftQueue q) + (if q[0] = .writeNextChar then 1 else 0) = writeEntries q := by
  have hq : q.toList = q[0] :: q.toList.tail := by
    have h := List.cons_head_tail (l := q.toList) (by simp)
    rw [← h, List.head_eq_getElem]
    simp
  unfold writeEntries
  rw [toList_shiftQueue, List.countP_append]
  conv_rhs => rw [hq, List.countP_cons]
  simp

/-- An entry placed in the least empty slot keeps the queue contiguous. -/
theorem hasCount_set {q : Vector LcdOp qcap} {c : Nat} {i : Fin qcap} {op : LcdOp}
    (h : HasCount q c) (hi : q[i] = .pause) (hl : ∀ j : Fin qcap, j < i → q[j] ≠ .pause)
    (hop : op ≠ .pause) : HasCount (q.set i.val op) (i.val + 1) := by
  obtain ⟨-, hc⟩ := h
  have hci : ¬ i.val < c := fun hlt => (hc i).mp hlt hi
  refine ⟨i.isLt, fun j => ?_⟩
  have hset : (q.set i.val op)[j] = if i.val = j.val then op else q[j] := Vector.getElem_set _ _
  rw [hset]
  by_cases hij : i.val = j.val
  · simp [hij, hop]
  · rw [if_neg hij]
    constructor
    · intro hj
      exact hl j (Fin.lt_def.mpr (by omega))
    · intro hj
      have := (hc j).mpr hj
      omega

/-- A dequeue keeps the queue contiguous, with one entry less where there was one. -/
theorem hasCount_shiftQueue {q : Vector LcdOp qcap} {c : Nat} (h : HasCount q c) :
    HasCount (shiftQueue q) (c - 1) := by
  obtain ⟨hle, hc⟩ := h
  refine ⟨by omega, fun i => ?_⟩
  have hget : (shiftQueue q)[i] = _ := shiftQueue_get q i.val i.isLt
  rw [hget]
  by_cases hi : i.val + 1 < qcap
  · rw [dif_pos hi]
    have hnext : i.val + 1 < c ↔ q[i.val + 1] ≠ .pause := hc ⟨i.val + 1, hi⟩
    rw [← hnext]
    omega
  · rw [dif_neg hi]
    simp only [ne_eq, not_true_eq_false, iff_false]
    omega

/-! ## ENQUEUE -/

/-- No `ENQUEUE` disarms (42_lcd_queue.md R142). -/
theorem enqueue_armed_of_armed {s : State} (h : s.armed = true) (op : LcdOp)
    (mode : EnqueueMode) : (s.enqueue op mode).armed = true := by
  rcases enqueue_cases s op mode with ⟨i, -, -, he⟩ | ⟨-, he⟩
  · rw [he]; cases mode <;> simp [armAfter, h]
  · rw [he]; exact h

/-- An `Immediate` entry leaves the queue armed where a queue with an entry is armed: it arms at
the front, and behind another entry the queue is armed already (42_lcd_queue.md R142). -/
theorem enqueue_immediate_armed {s : State} (h : s.q[0] ≠ .pause → s.armed = true) (op : LcdOp) :
    (s.enqueue op .immediate).armed = true := by
  rcases enqueue_cases s op .immediate with ⟨i, -, hl, he⟩ | ⟨hn, he⟩
  · rw [he]
    by_cases hi : i = 0
    · simp [armAfter, hi]
    · simp [armAfter, h (hl 0 (Fin.pos_iff_ne_zero.mpr hi))]
  · rw [he]; exact h (hn 0)

@[simp] theorem enqueue_irqHold (s : State) (op : LcdOp) (mode : EnqueueMode) :
    (s.enqueue op mode).irqHold = s.irqHold := by
  obtain ⟨q, a, o, h⟩ := enqueue_frame s op mode; rw [h]

@[simp] theorem enqueue_messageProgress (s : State) (op : LcdOp) (mode : EnqueueMode) :
    (s.enqueue op mode).messageProgress = s.messageProgress := by
  obtain ⟨q, a, o, h⟩ := enqueue_frame s op mode; rw [h]

/-- An `ENQUEUE` of another opcode leaves the number of `WRITE_NEXT_CHAR` entries. -/
theorem writeEntries_enqueue (s : State) {op : LcdOp} (hop : op ≠ .writeNextChar)
    (mode : EnqueueMode) : writeEntries (s.enqueue op mode).q = writeEntries s.q := by
  rcases enqueue_cases s op mode with ⟨i, hi, -, he⟩ | ⟨-, he⟩
  · rw [he]; exact writeEntries_set hi hop
  · rw [he]

/-! ## Scores and messages -/

theorem wrapLoop_lt {m : Nat} (hm : 0 < m) {fuel w : Nat} (h : w ≤ fuel) :
    wrapLoop fuel m w < m := by
  induction fuel generalizing w with
  | zero => simpa [wrapLoop, Nat.le_zero.mp h] using hm
  | succ fuel ih =>
    unfold wrapLoop
    split
    · exact ih (by omega)
    · omega

/-- A score wrapped around fits its positions (41_segment_encoder.md R121). -/
theorem wrapScore_lt (n score : Nat) : wrapScore n score < 10 ^ n :=
  wrapLoop_lt (Nat.pow_pos (by decide)) le_rfl

@[simp] theorem length_digitsOf (n v : Nat) : (digitsOf n v).length = n := by
  induction n generalizing v with
  | zero => rfl
  | succ n ih => simp [digitsOf, ih]

theorem digitsOf_lt {n v : Nat} (h : v < 10 ^ n) : ∀ d ∈ digitsOf n v, d < 10 := by
  induction n generalizing v with
  | zero => simp [digitsOf]
  | succ n ih =>
    have hn : 0 < 10 ^ n := Nat.pow_pos (by decide)
    rw [digitsOf, List.forall_mem_cons]
    exact ⟨Nat.div_lt_of_lt_mul (by rwa [← pow_succ]), ih (Nat.mod_lt v hn)⟩

/-- Digits below 10 have their patterns, one each (41_segment_encoder.md R125, R126). -/
theorem renderDigits_ok (c : Config) (z : Nat) {ds : List Nat} (h : ∀ d ∈ ds, d < 10) :
    ∃ pat, renderDigits c z ds = .ok pat ∧ pat.length = ds.length := by
  induction ds generalizing z with
  | nil => exact ⟨[], by simp [renderDigits], rfl⟩
  | cons d ds ih =>
    obtain ⟨hd, hds⟩ := List.forall_mem_cons.mp h
    cases z with
    | zero =>
      obtain ⟨pat, hp, hl⟩ := ih 0 hds
      exact ⟨c.segLut[d] :: pat, by simp [renderDigits, lutOrError, hd, hp], by simp [hl]⟩
    | succ z =>
      obtain ⟨pat, hp, hl⟩ := ih z hds
      exact ⟨c.segBlank :: pat, by simp [renderDigits, hp], by simp [hl]⟩

/-- Every score has a pattern, one byte for each position: `InvalidDigit` is unreachable
(41_segment_encoder.md R124, 60_exceptions.md R220). -/
theorem segEncode_ok (c : Config) (score : Score) :
    ∃ pat, segEncode c score = .ok pat ∧ pat.length = c.nseg := by
  obtain ⟨pat, hp, hl⟩ := renderDigits_ok c (blankCount (scoreDigits c score))
    (digitsOf_lt (wrapScore_lt c.nseg score.toNat))
  exact ⟨pat, hp, by rw [hl, length_digitsOf]⟩

theorem copyLoop_count_le (c : Config) (room : Nat) (src : List Byte) (n : Nat) (m : Memory) :
    (copyLoop c room src n m).2 ≤ n + room := by
  induction room generalizing src n m with
  | zero => exact le_rfl
  | succ room ih =>
    unfold copyLoop
    split
    · exact Nat.le_add_right n _
    · exact (ih _ _ _).trans (by omega)

/-- In the spec's reading the visible length is at most the window (43_text_encoder.md R185). -/
theorem textEncode_messageLength_le {s : State} (h : s.cfg.lenCountsGap = false) (src : List Byte)
    (scramble : Bool) : (s.textEncode src scramble).messageLength ≤ visMax := by
  have hn := copyLoop_count_le s.cfg visMax src 0 (s.msg.fill fillCode (List.range msgcap))
  simpa [State.textEncode, visibleLength, h, encodeBuffer] using hn

end Sys2Proof.Machine
end

section
/-! SUPPORT. The inversion of a step: which command ran, what it left, and that no command but
`INIT` touches the configuration, the assignment or the marks of a started block. -/

namespace Sys2Proof.Machine

/-! ## The end state of INIT -/

/-- The state that `INIT` leaves (44_facade.md R200, R201). -/
def initEnd (p : PinMap) (s : State) : State :=
  { s with
    pins := if s.initialized then s.pins else p
    driven := true
    pin := idlePins s.cfg
    x := List.replicate s.cfg.imageLen 0x00#8
    q := powerOnQueue
    armed := true
    msg := []
    messageProgress := 0
    messageLength := 0
    status := .ok
    ovf := false
    initialized := true
    irqHold := false
    wire := s.wire ++ busInitEvents s.cfg }

theorem exec_init (p : PinMap) (s : State) : exec (.init p) s = .next (initEnd p s) := by
  show execInit p s = _
  rw [execInit_eq, busInit_eq]
  rfl

/-! ## What a host command can do -/

theorem decodeInit_ok {bs rest : List Byte} {i : Instr} (h : decodeInit bs = .ok (i, rest)) :
    ∃ p, i = .init p := by
  unfold decodeInit at h
  split at h
  · cases h; exact ⟨_, rfl⟩
  · cases h

theorem decodeShowScore_ok {bs rest : List Byte} {i : Instr}
    (h : decodeShowScore bs = .ok (i, rest)) : ∃ score, i = .showScore score := by
  unfold decodeShowScore at h
  split at h
  · cases h; exact ⟨_, rfl⟩
  · cases h

theorem decodeShowMessage_ok {bs rest : List Byte} {i : Instr}
    (h : decodeShowMessage bs = .ok (i, rest)) :
    ∃ src highScore, i = .showMessage src highScore := by
  unfold decodeShowMessage at h
  split at h
  · split at h
    · cases h; exact ⟨_, _, rfl⟩
    · cases h
  · cases h

/-- The host's format yields host commands only, never an opcode of a queue slot (30_encoding.md
R79, R85). -/
theorem slotOf_of_decode_fHost {bs rest : List Byte} {i : Instr}
    (h : decode .fHost bs = .ok (i, rest)) : slotOf i = none := by
  cases bs with
  | nil => cases h
  | cons b bs =>
    simp only [decode, decodeHost] at h
    split at h
    · obtain ⟨p, rfl⟩ := decodeInit_ok h; rfl
    · obtain ⟨score, rfl⟩ := decodeShowScore_ok h; rfl
    · obtain ⟨src, highScore, rfl⟩ := decodeShowMessage_ok h; rfl
    all_goals cases h
    all_goals rfl

/-- The end state of `SHOW_MESSAGE` (43_text_encoder.md R190). -/
abbrev showMessageEnd (s : State) (src : List Byte) (highScore : Bool) : State :=
  ((((s.textEncode src highScore).enqueue .clear .immediate).enqueue .returnHome .hold).enqueue
    .writeNextChar .forceActivate).setStatus .ok

/-- What a host command that answers a next state does, one case for each command
(30_encoding.md R85). All but `INIT` find the block started (44_facade.md R204). -/
inductive HostNext (s : State) : Instr → State → Prop
  | init (p : PinMap) : HostNext s (.init p) (initEnd p s)
  | showScore (score : Score) (pat : List Byte) (ready : s.initialized = true)
      (encoded : segEncode s.cfg score = .ok pat) (width : pat.length = s.cfg.nseg) :
      HostNext s (.showScore score) (s.showPattern pat)
  | clearSegments (ready : s.initialized = true) :
      HostNext s .clearSegments (s.showPattern (List.replicate s.cfg.nseg s.cfg.segBlank))
  | showMessage (src : List Byte) (highScore : Bool) (ready : s.initialized = true) :
      HostNext s (.showMessage src highScore) (showMessageEnd s src highScore)
  | clearLcd (ready : s.initialized = true) :
      HostNext s .clearLcd ((s.enqueue .clear .immediate).setStatus .ok)
  | pollLcd (u : State) (ready : s.initialized = true)
      (drained : drainOne (s.setIrqHold true) = .next u) :
      HostNext s .pollLcd ((u.setIrqHold false).setStatus .ok)

theorem execShowScore_next {s t : State} {score : Score} (h : execShowScore score s = .next t) :
    HostNext s (.showScore score) t := by
  obtain ⟨ready, ht⟩ := whenInitialized_next h
  obtain ⟨pat, encoded, width⟩ := segEncode_ok s.cfg score
  have hpat : patternOf s.cfg (scoreDigits s.cfg score) = .ok pat := encoded
  have hshow : s.showDigits (scoreDigits s.cfg score) = s.showPattern pat := by
    simp only [State.showDigits, hpat]
  cases ht
  rw [hshow]
  exact .showScore score pat ready encoded width

theorem execClearSegments_next {s t : State} (h : execClearSegments s = .next t) :
    HostNext s .clearSegments t := by
  obtain ⟨ready, ht⟩ := whenInitialized_next h
  cases ht
  exact .clearSegments ready

theorem execShowMessage_next {s t : State} {src : List Byte} {highScore : Bool}
    (h : execShowMessage src highScore s = .next t) :
    HostNext s (.showMessage src highScore) t := by
  obtain ⟨ready, ht⟩ := whenInitialized_next h
  cases ht
  exact .showMessage src highScore ready

theorem execClearLcd_next {s t : State} (h : execClearLcd s = .next t) :
    HostNext s .clearLcd t := by
  obtain ⟨ready, ht⟩ := whenInitialized_next h
  cases ht
  exact .clearLcd ready

/-- The inversion of `exec` on the six host commands. -/
theorem exec_hostNext {i : Instr} {s t : State} (hi : slotOf i = none)
    (h : exec i s = .next t) : HostNext s i t := by
  cases i with
  | init p =>
    rw [exec_init] at h
    cases h
    exact .init p
  | showScore score => exact execShowScore_next h
  | showMessage src highScore => exact execShowMessage_next h
  | clearLcd => exact execClearLcd_next h
  | clearSegments => exact execClearSegments_next h
  | pollLcd =>
    obtain ⟨ready, u, drained, rfl⟩ := execPollLcd_next h
    exact .pollLcd u ready drained
  | _ => cases hi

/-- A step that answers a next state had nothing to do, or ran a host command with the channel moved
on past it. -/
theorem step_hostNext {s t : State} (h : step s = .next t) :
    (s.host = [] ∧ t = s) ∨ ∃ i rest, decode .fHost s.host = .ok (i, rest) ∧
      HostNext { s with host := rest } i t := by
  rcases step_next h with hidle | ⟨i, rest, hd, he⟩
  · exact .inl hidle
  · exact .inr ⟨i, rest, hd, exec_hostNext (slotOf_of_decode_fHost hd) he⟩

/-- What executing an opcode does: `PAUSE` disarms, an instruction opcode sends its control word,
and `WRITE_NEXT_CHAR` sends the character at the cursor (42_lcd_queue.md R157, R159, R165). -/
theorem executeOp_next {op : LcdOp} {s t : State} (h : executeOp op s = .next t) :
    (op = .pause ∧ t = s.disarm) ∨
    (∃ w, controlWord s.cfg op = some w ∧ t = s.sendControl w) ∨
    (op = .writeNextChar ∧ t = s.sendChar (s.msg.read s.messageProgress)) := by
  cases op with
  | pause => exact .inl ⟨rfl, (Host.Outcome.next.inj h).symm⟩
  | writeNextChar =>
    refine .inr (.inr ⟨rfl, ?_⟩)
    simp only [executeOp, execWriteNextChar, State.memRead] at h
    by_cases hread : s.messageProgress < msgcap
    · simp only [if_pos hread] at h
      exact (Host.Outcome.next.inj h).symm
    · simp only [if_neg hread] at h
      cases h
  | _ => exact .inr (.inl ⟨_, rfl, (Host.Outcome.next.inj h).symm⟩)

/-! ## What no command but INIT touches -/

/-- From `s` to `t` the block goes on: its configuration, assignment and the two marks of a
started block are kept, the image keeps its length, and the traces only grow. -/
structure Continues (s t : State) : Prop where
  cfg : t.cfg = s.cfg
  pins : t.pins = s.pins
  driven : t.driven = s.driven
  initialized : t.initialized = s.initialized
  imageLength : t.x.length = s.x.length
  wire : s.wire <+: t.wire
  frames : s.frames <+: t.frames

theorem Continues.refl (s : State) : Continues s s :=
  ⟨rfl, rfl, rfl, rfl, rfl, List.prefix_rfl, List.prefix_rfl⟩

theorem Continues.trans {s t u : State} (h : Continues s t) (k : Continues t u) :
    Continues s u where
  cfg := k.cfg.trans h.cfg
  pins := k.pins.trans h.pins
  driven := k.driven.trans h.driven
  initialized := k.initialized.trans h.initialized
  imageLength := k.imageLength.trans h.imageLength
  wire := h.wire.trans k.wire
  frames := h.frames.trans k.frames

theorem setLine_continues (s : State) (P : Line) (b : Level) : Continues s (s.setLine P b) :=
  { Continues.refl s with wire := List.prefix_append _ _ }

theorem pulse_continues (s : State) (P : Line) : Continues s (s.pulse P) :=
  (setLine_continues s P true).trans (setLine_continues _ P false)

theorem shiftBits_continues (s : State) (bs : List Level) : Continues s (s.shiftBits bs) := by
  induction bs generalizing s with
  | nil => exact .refl s
  | cons b bs ih =>
    exact ((setLine_continues s .sdi b).trans (pulse_continues _ .sck)).trans (ih _)

theorem recordFrame_continues (s : State) : Continues s s.recordFrame :=
  { Continues.refl s with frames := List.prefix_append _ _ }

theorem refresh_continues (s : State) : Continues s s.refresh :=
  ((shiftBits_continues s _).trans (pulse_continues _ .rck)).trans (recordFrame_continues _)

theorem setStatus_continues (s : State) (v : Status) : Continues s (s.setStatus v) :=
  { Continues.refl s with }

theorem setIrqHold_continues (s : State) (b : Bool) : Continues s (s.setIrqHold b) :=
  { Continues.refl s with }

theorem setReg_continues (s : State) (i : Nat) (v : Byte) : Continues s (s.setReg i v) :=
  { Continues.refl s with imageLength := List.length_set }

theorem setRegs_continues (s : State) (i : Nat) (bs : List Byte) :
    Continues s (s.setRegs i bs) := by
  induction bs generalizing s i with
  | nil => exact .refl s
  | cons b bs ih => exact (setReg_continues s i b).trans (ih _ _)

theorem setReg_refresh_continues (s : State) (i : Nat) (v : Byte) :
    Continues s (s.setReg i v).refresh :=
  (setReg_continues s i v).trans (refresh_continues _)

theorem pulseEnable_continues (s : State) : Continues s s.pulseEnable :=
  ((setReg_refresh_continues s _ _).trans (setReg_refresh_continues _ _ _)).trans
    (setReg_refresh_continues _ _ _)

theorem sendControl_continues (s : State) (w : Byte) : Continues s (s.sendControl w) :=
  (setReg_continues s _ w).trans (pulseEnable_continues _)

theorem advanceCursor_continues (s : State) : Continues s s.advanceCursor :=
  { Continues.refl s with }

theorem sendChar_continues (s : State) (ch : Byte) : Continues s (s.sendChar ch) :=
  (((setReg_continues s _ _).trans (setReg_continues _ _ _)).trans
    (pulseEnable_continues _)).trans (advanceCursor_continues _)

theorem enqueue_continues (s : State) (op : LcdOp) (mode : EnqueueMode) :
    Continues s (s.enqueue op mode) := by
  obtain ⟨q, armed, ovf, h⟩ := enqueue_frame s op mode
  rw [h]
  exact { Continues.refl s with }

theorem showPattern_continues (s : State) (pat : List Byte) : Continues s (s.showPattern pat) :=
  ((setRegs_continues s 0 pat).trans (refresh_continues _)).trans (setStatus_continues _ _)

theorem textEncode_continues (s : State) (src : List Byte) (scramble : Bool) :
    Continues s (s.textEncode src scramble) :=
  ⟨rfl, rfl, rfl, rfl, rfl, List.prefix_rfl, List.prefix_rfl⟩

theorem showMessageEnd_continues (s : State) (src : List Byte) (highScore : Bool) :
    Continues s (showMessageEnd s src highScore) :=
  ((((textEncode_continues s src highScore).trans
    (enqueue_continues _ .clear .immediate)).trans
    (enqueue_continues _ .returnHome .hold)).trans
    (enqueue_continues _ .writeNextChar .forceActivate)).trans (setStatus_continues _ .ok)

theorem dequeue_continues (s : State) : Continues s s.dequeue :=
  ⟨dequeue_cfg s, dequeue_pins s, dequeue_driven s, dequeue_initialized s, by rw [dequeue_x],
    by rw [dequeue_wire], by rw [dequeue_frames]⟩

theorem settleQueue_continues (s : State) (op : LcdOp) : Continues s (s.settleQueue op) := by
  unfold State.settleQueue
  split
  · exact .refl s
  · exact dequeue_continues s

theorem executeOp_continues {op : LcdOp} {s t : State} (h : executeOp op s = .next t) :
    Continues s t := by
  rcases executeOp_next h with ⟨-, rfl⟩ | ⟨w, -, rfl⟩ | ⟨-, rfl⟩
  · exact { Continues.refl s with }
  · exact sendControl_continues s w
  · exact sendChar_continues s _

theorem drainOne_continues {s t : State} (h : drainOne s = .next t) : Continues s t := by
  rcases drainOne_next h with ⟨-, rfl⟩ | ⟨-, u, hu, rfl⟩
  · exact .refl _
  · exact (executeOp_continues hu).trans (settleQueue_continues u _)

/-- A host command is an `INIT`, or it ran on a started block, which goes on. -/
theorem HostNext.init_or_continues {i : Instr} {s t : State} (h : HostNext s i t) :
    (∃ p, i = .init p ∧ t = initEnd p s) ∨ (s.initialized = true ∧ Continues s t) := by
  cases h with
  | init p => exact .inl ⟨p, rfl, rfl⟩
  | showScore score pat ready => exact .inr ⟨ready, showPattern_continues s pat⟩
  | clearSegments ready => exact .inr ⟨ready, showPattern_continues s _⟩
  | showMessage src highScore ready => exact .inr ⟨ready, showMessageEnd_continues s src highScore⟩
  | clearLcd ready =>
    exact .inr ⟨ready, (enqueue_continues s _ _).trans (setStatus_continues _ _)⟩
  | pollLcd u ready drained =>
    exact .inr ⟨ready, (((setIrqHold_continues s true).trans (drainOne_continues drained)).trans
      (setIrqHold_continues u false)).trans (setStatus_continues _ _)⟩

/-- What a step does: nothing, an `INIT`, or a command of a started block. -/
theorem step_init_or_continues {s t : State} (h : step s = .next t) :
    t = s ∨
    (∃ p rest, decode .fHost s.host = .ok (.init p, rest) ∧ t = initEnd p { s with host := rest }) ∨
    (s.initialized = true ∧ Continues s t) := by
  rcases step_hostNext h with ⟨-, rfl⟩ | ⟨i, rest, hd, hn⟩
  · exact .inl rfl
  · rcases hn.init_or_continues with ⟨p, rfl, rfl⟩ | ⟨ready, hc⟩
    · exact .inr (.inl ⟨p, rest, hd, rfl⟩)
    · exact .inr (.inr ⟨ready, { hc with }⟩)

/-- Settles O47: `INIT` zeroes an image of the same length and appends its five events, and every
other command lets the block go on. -/
theorem stepKeepsTheConfiguration : Obligations.StepKeepsTheConfiguration := by
  intro s t h
  rcases step_init_or_continues h with rfl | ⟨p, rest, -, rfl⟩ | ⟨-, hc⟩
  · exact ⟨rfl, id, List.prefix_rfl, List.prefix_rfl⟩
  · exact ⟨rfl, fun _ => List.length_replicate, List.prefix_append _ _, List.prefix_rfl⟩
  · exact ⟨hc.cfg, hc.imageLength.trans, hc.wire, hc.frames⟩

/-- Settles O59: before `INIT` a command of a started block cannot run, and `INIT` records the
assignment on the first time only. -/
theorem onlyInitStartsTheBlock : Obligations.OnlyInitStartsTheBlock := by
  intro s t h
  rcases step_init_or_continues h with rfl | ⟨p, rest, hd, rfl⟩ | ⟨ready, hc⟩
  · exact ⟨fun _ => .inl rfl, fun hi => ⟨hi, rfl⟩, id⟩
  · refine ⟨fun hi => .inr ⟨p, rest, hd, rfl, rfl, ?_⟩, fun hi => ⟨rfl, ?_⟩, fun _ => rfl⟩
    · simp [initEnd, hi]
    · simp [initEnd, hi]
  · refine ⟨fun hi => ?_, fun hi => ⟨hc.initialized.trans hi, hc.pins⟩, hc.driven.trans⟩
    rw [ready] at hi
    cases hi

end Sys2Proof.Machine
end

section
/-! SUPPORT. The invariant of a command boundary inside a command, and the operations that keep
it. -/

namespace Sys2Proof.Machine

/-! ## The invariant inside a command -/

/-- The clauses of the invariant that every bus operation keeps: the lengths, the idle clocks, the
levels of CLR and OE (10_state.md R31, R32). -/
structure BusOk (s : State) : Prop where
  shape : Shape s
  clocks : ClocksIdle s
  levels : s.pin.clr = s.cfg.clrLevel ∧ s.pin.oe = s.cfg.oeLevel ∧ s.driven = true

/-- The invariant but for the two fields a command settles last, `irqHold` and `status`. -/
structure CommandInv (s : State) : Prop where
  config : s.cfg.Ok
  reading : s.cfg.lenCountsGap = false
  initialized : s.initialized = true
  bus : BusOk s
  queue : ∃ c, HasCount s.q c
  frontArmed : s.q[0] ≠ .pause → s.armed = true
  length : s.messageLength ≤ 26
  cursor : s.messageProgress + writeEntries s.q ≤ 45
  enableClear : s.getReg s.cfg.ctrl &&& s.cfg.enMask = 0x00#8

theorem inv_iff {s : State} : Inv s ↔ CommandInv s ∧ s.irqHold = false ∧ s.status = .ok := by
  constructor
  · intro h
    exact ⟨⟨h.config, h.reading, h.initialized, ⟨h.shape, h.clocks, h.levels⟩, h.queue,
      h.frontArmed, h.length, h.cursor, h.enableClear⟩, h.irqHold, h.status⟩
  · rintro ⟨h, hirq, hstatus⟩
    exact ⟨h.config, h.reading, h.initialized, h.bus.shape, h.queue, h.frontArmed, h.length,
      h.cursor, h.enableClear, h.bus.clocks, h.bus.levels, hirq, hstatus⟩

/-! ## The bus operations keep it -/

theorem BusOk.setReg {s : State} (h : BusOk s) (i : Nat) (v : Byte) : BusOk (s.setReg i v) where
  shape := ⟨List.length_set.trans h.shape.image, h.shape.cells, h.shape.outputs, h.shape.memory⟩
  clocks := h.clocks
  levels := h.levels

theorem BusOk.setRegs {s : State} (h : BusOk s) (i : Nat) (bs : List Byte) :
    BusOk (s.setRegs i bs) := by
  induction bs generalizing s i with
  | nil => exact h
  | cons b bs ih => exact ih (h.setReg i b) (i + 1)

/-- A refresh keeps the widths of the chain. -/
theorem refresh_shape {s : State} (h : Shape s) (hidle : ClocksIdle s) : Shape s.refresh := by
  obtain ⟨hsck, hrck⟩ := hidle
  have hchain : (((imageBits s.x).reverse ++ s.sr).take s.sr.length).length =
      8 * s.cfg.imageLen := by
    rw [List.length_take, List.length_append, ← h.cells]
    omega
  rw [refresh_eq hsck hrck]
  exact ⟨h.image, hchain, hchain, h.memory⟩

theorem BusOk.refresh {s : State} (h : BusOk s) : BusOk s.refresh := by
  obtain ⟨hsck, hrck⟩ := h.clocks
  obtain ⟨hclr, hoe, hdriven⟩ := h.levels
  obtain ⟨hsck', hrck', hclr', hoe'⟩ := refresh_idle hsck hrck
  refine ⟨refresh_shape h.shape h.clocks, ⟨hsck', hrck'⟩, ?_, ?_, ?_⟩
  · rw [hclr', refresh_cfg, hclr]
  · rw [hoe', refresh_cfg, hoe]
  · rw [refresh_driven, hdriven]

theorem BusOk.pulseEnable {s : State} (h : BusOk s) : BusOk s.pulseEnable :=
  ((((h.setReg _ _).refresh).setReg _ _).refresh.setReg _ _).refresh

theorem BusOk.ctrl_lt {s : State} (h : BusOk s) : s.cfg.ctrl < s.x.length := by
  rw [h.shape.image]
  exact Nat.lt_add_of_pos_right (by decide)

namespace CommandInv

/-- An operation on the image, the lines, the chain and the traces keeps the invariant where it
keeps the bus clauses and ends with the enable bit clear. -/
theorem of_opcodeFrame {s t : State} (h : CommandInv s) (f : OpcodeFrame s t) (hb : BusOk t)
    (he : t.getReg s.cfg.ctrl &&& s.cfg.enMask = 0x00#8) : CommandInv t where
  config := f.cfg ▸ h.config
  reading := f.cfg ▸ h.reading
  initialized := f.initialized.trans h.initialized
  bus := hb
  queue := f.q ▸ h.queue
  frontArmed := by rw [f.q, f.armed]; exact h.frontArmed
  length := f.messageLength ▸ h.length
  cursor := by rw [f.messageProgress, f.q]; exact h.cursor
  enableClear := by rw [f.cfg]; exact he

/-- Whatever was written into the image before it, an enable pulse restores the invariant
(10_state.md R39). -/
theorem of_pulseEnable {s u : State} (h : CommandInv s) (f : OpcodeFrame s u) (hb : BusOk u) :
    CommandInv u.pulseEnable :=
  h.of_opcodeFrame (f.trans (pulseEnable_opcodeFrame u)) hb.pulseEnable
    (f.cfg ▸ pulseEnable_enableClear hb.ctrl_lt)

theorem sendControl {s : State} (h : CommandInv s) (w : Byte) : CommandInv (s.sendControl w) :=
  h.of_pulseEnable (setReg_opcodeFrame s _ w) (h.bus.setReg _ _)

/-- A segment pattern stays below the control byte. -/
theorem setRegs_refresh {s : State} (h : CommandInv s) {pat : List Byte}
    (hp : pat.length = s.cfg.nseg) : CommandInv (s.setRegs 0 pat).refresh := by
  refine h.of_opcodeFrame ((setRegs_opcodeFrame s 0 pat).trans (refresh_opcodeFrame _))
    (h.bus.setRegs 0 pat).refresh ?_
  rw [getReg_refresh, getReg_setRegs_of_le s pat (by rw [Nat.zero_add]; exact hp.le)]
  exact h.enableClear

/-! ## The fields outside the image -/

theorem setStatus {s : State} (h : CommandInv s) (v : Status) : CommandInv (s.setStatus v) :=
  { h with bus := { h.bus with shape := { h.bus.shape with } } }

theorem setIrqHold {s : State} (h : CommandInv s) (b : Bool) : CommandInv (s.setIrqHold b) :=
  { h with bus := { h.bus with shape := { h.bus.shape with } } }

theorem setHost {s : State} (h : CommandInv s) (bs : List Byte) :
    CommandInv { s with host := bs } :=
  { h with bus := { h.bus with shape := { h.bus.shape with } } }

theorem advanceCursor {s : State} (h : CommandInv s)
    (hc : s.messageProgress + 1 + writeEntries s.q ≤ 45) : CommandInv s.advanceCursor :=
  { h with bus := { h.bus with shape := { h.bus.shape with } }, cursor := hc }

theorem textEncode {s : State} (h : CommandInv s) (src : List Byte) (scramble : Bool) :
    CommandInv (s.textEncode src scramble) :=
  { h with
    bus := { h.bus with
      shape := { h.bus.shape with memory := textEncode_wf s src scramble h.bus.shape.memory } }
    length := textEncode_messageLength_le h.reading src scramble
    cursor := by
      have hle : writeEntries s.q ≤ 20 := writeEntries_le s.q
      show 0 + writeEntries s.q ≤ 45
      omega }

/-! ## The queue -/

/-- Another queue in place of the old one: contiguous, armed while it has an entry, and with room
for the cursor. -/
theorem setQueue {s : State} (h : CommandInv s) {q : Vector LcdOp qcap} {armed ovf : Bool}
    (hqueue : ∃ c, HasCount q c) (hfront : q[0] ≠ .pause → armed = true)
    (hcursor : s.messageProgress + writeEntries q ≤ 45) :
    CommandInv { s with q := q, armed := armed, ovf := ovf } :=
  { h with
    bus := { h.bus with shape := { h.bus.shape with } }
    queue := hqueue
    frontArmed := hfront
    cursor := hcursor }

theorem disarm {s : State} (h : CommandInv s) (hq : s.q[0] = .pause) : CommandInv s.disarm :=
  h.setQueue (ovf := s.ovf) h.queue (absurd hq) h.cursor

/-- Behind an entry there is an entry before it, so what a dequeue moves to the front is armed. -/
theorem dequeue {s : State} (h : CommandInv s) : CommandInv s.dequeue := by
  obtain ⟨c, hc⟩ := h.queue
  have hshift := hasCount_shiftQueue hc
  have hfront : (shiftQueue s.q)[0] ≠ .pause → s.armed = true := by
    intro hne
    have hcount : 0 < c - 1 := (hshift.2 0).mpr hne
    exact h.frontArmed ((hc.2 0).mp (show 0 < c by omega))
  have hcursor : s.messageProgress + writeEntries (shiftQueue s.q) ≤ 45 := by
    have := writeEntries_shiftQueue s.q
    have := h.cursor
    omega
  exact h.setQueue (ovf := s.ovf) ⟨c - 1, hshift⟩ hfront hcursor

/-- An entry keeps the queue contiguous; the caller says that it ends armed and that the cursor has
room for it. -/
theorem enqueue {s : State} (h : CommandInv s) {op : LcdOp} {mode : EnqueueMode}
    (hop : op ≠ .pause) (harmed : (s.enqueue op mode).armed = true)
    (hcursor : s.messageProgress + writeEntries (s.enqueue op mode).q ≤ 45) :
    CommandInv (s.enqueue op mode) := by
  obtain ⟨c, hc⟩ := h.queue
  rcases enqueue_cases s op mode with ⟨i, hi, hl, he⟩ | ⟨-, he⟩
  · rw [he] at harmed hcursor ⊢
    exact h.setQueue (ovf := s.ovf) ⟨_, hasCount_set hc hi hl hop⟩ (fun _ => harmed) hcursor
  · rw [he]
    exact h.setQueue (ovf := true) h.queue h.frontArmed h.cursor

end CommandInv

end Sys2Proof.Machine
end

section
/-! SUPPORT. Every command keeps the invariant, and `INIT` establishes it. -/

namespace Sys2Proof.Machine

/-! ## The commands keep the invariant -/

/-- Every opcode but `WRITE_NEXT_CHAR` leaves the queue when it ran (42_lcd_queue.md R152). -/
theorem settleQueue_of_ne {op : LcdOp} (hop : op ≠ .writeNextChar) (s : State) :
    s.settleQueue op = s.dequeue := if_neg fun hand => hop hand.1

theorem showPattern_irqHold (s : State) (pat : List Byte) :
    (s.showPattern pat).irqHold = s.irqHold :=
  ((setRegs_opcodeFrame s 0 pat).trans (refresh_opcodeFrame _)).irqHold

theorem dequeue_advanceCursor (s : State) : s.advanceCursor.dequeue = s.dequeue.advanceCursor := by
  unfold State.dequeue
  rfl

namespace CommandInv

theorem showPattern {s : State} (h : CommandInv s) {pat : List Byte}
    (hp : pat.length = s.cfg.nseg) : CommandInv (s.showPattern pat) :=
  (h.setRegs_refresh hp).setStatus .ok

/-- `CLEAR` queued at once arms where it stands at the front, and adds nothing to write. -/
theorem enqueueClear {s : State} (h : CommandInv s) : CommandInv (s.enqueue .clear .immediate) :=
  h.enqueue (by decide) (enqueue_immediate_armed h.frontArmed .clear)
    (by rw [writeEntries_enqueue s (by decide)]; exact h.cursor)

/-- The first entry of `SHOW_MESSAGE` leaves the queue armed, and with the cursor at 0 even 20
`WRITE_NEXT_CHAR` entries are in range. -/
theorem showMessageEnd {s : State} (h : CommandInv s) (src : List Byte) (highScore : Bool) :
    CommandInv (showMessageEnd s src highScore) := by
  have htext := h.textEncode src highScore
  have harmed := enqueue_immediate_armed htext.frontArmed .clear
  have hhome := enqueue_armed_of_armed harmed .returnHome .hold
  have hwrite := enqueue_armed_of_armed hhome .writeNextChar .forceActivate
  have h1 := htext.enqueueClear
  have h2 := h1.enqueue (by decide) hhome
    (by rw [writeEntries_enqueue _ (by decide)]; exact h1.cursor)
  refine (h2.enqueue (by decide) hwrite ?_).setStatus .ok
  have hzero : (s.textEncode src highScore).messageProgress = 0 := rfl
  rw [enqueue_messageProgress, enqueue_messageProgress, hzero]
  exact (Nat.add_le_add_left (writeEntries_le _) 0).trans (by decide)

/-- After a character the entry stays while the cursor is below the length, so at most 25, and a
dequeue takes its own entry off the count (42_lcd_queue.md R152, R154). -/
theorem advanceCursor_settleQueue {s : State} (h : CommandInv s) (hq : s.q[0] = .writeNextChar) :
    CommandInv (s.advanceCursor.settleQueue .writeNextChar) := by
  have hcursor := h.cursor
  unfold State.settleQueue
  split
  next hstay =>
    have hbelow : s.messageProgress + 1 < s.messageLength := hstay.2
    have hlength := h.length
    have hcount : writeEntries s.q ≤ 20 := writeEntries_le s.q
    exact h.advanceCursor (by omega)
  next =>
    have hshift := writeEntries_shiftQueue s.q
    rw [if_pos hq] at hshift
    rw [dequeue_advanceCursor]
    exact h.dequeue.advanceCursor (by rw [dequeue_messageProgress, dequeue_q]; omega)

theorem sendChar_settleQueue {s : State} (h : CommandInv s) (hq : s.q[0] = .writeNextChar)
    (ch : Byte) : CommandInv ((s.sendChar ch).settleQueue .writeNextChar) := by
  have hwritten := (setReg_opcodeFrame s s.cfg.ctrl (charControl s.cfg ch)).trans
    (setReg_opcodeFrame _ s.cfg.data (charData s.cfg ch))
  have hsent := h.of_pulseEnable hwritten ((h.bus.setReg _ _).setReg _ _)
  refine hsent.advanceCursor_settleQueue ?_
  rw [(pulseEnable_opcodeFrame _).q, hwritten.q]
  exact hq

/-- The drain step keeps the invariant (42_lcd_queue.md R150). -/
theorem of_drainOne {s t : State} (h : CommandInv s) (hd : drainOne s = .next t) :
    CommandInv t := by
  rcases drainOne_next hd with ⟨-, rfl⟩ | ⟨-, u, hu, rfl⟩
  · exact h
  rcases executeOp_next hu with ⟨hq, rfl⟩ | ⟨w, hw, rfl⟩ | ⟨hq, rfl⟩
  · rw [settleQueue_of_ne (by rw [hq]; decide)]
    exact (h.disarm hq).dequeue
  · rw [settleQueue_of_ne (by intro hq; rw [hq] at hw; cases hw)]
    exact (h.sendControl w).dequeue
  · rw [hq]
    exact h.sendChar_settleQueue hq _

end CommandInv

/-! ## INIT establishes the invariant -/

theorem writeEntries_powerOnQueue : writeEntries powerOnQueue = 0 := by decide

theorem hasCount_powerOnQueue : HasCount powerOnQueue 4 := by decide

/-- The end state of `INIT` is a command boundary, whatever came before it (10_state.md R41). -/
theorem inv_initEnd {s : State} (p : PinMap) (hok : s.cfg.Ok) (hgap : s.cfg.lenCountsGap = false)
    (hcells : s.sr.length = 8 * s.cfg.imageLen) (houtputs : s.out.length = 8 * s.cfg.imageLen) :
    Inv (initEnd p s) where
  config := hok
  reading := hgap
  initialized := rfl
  shape := ⟨List.length_replicate, hcells, houtputs, wf_nil⟩
  queue := ⟨4, hasCount_powerOnQueue⟩
  frontArmed := fun _ => rfl
  length := Nat.zero_le 26
  cursor := by
    show 0 + writeEntries powerOnQueue ≤ 45
    rw [writeEntries_powerOnQueue]
    decide
  enableClear := by
    have hzero : (initEnd p s).getReg s.cfg.ctrl = 0x00#8 :=
      List.getD_replicate _ (Nat.lt_add_of_pos_right (by decide))
    show (initEnd p s).getReg s.cfg.ctrl &&& s.cfg.enMask = 0x00#8
    rw [hzero]
    exact BitVec.zero_and
  clocks := ⟨rfl, rfl⟩
  levels := ⟨rfl, rfl, rfl⟩
  irqHold := rfl
  status := rfl

/-- Started with nothing sent, `INIT` leaves traces that agree: its five events cut off no frame
(40_bus.md R100, R108). -/
theorem traceOk_initEnd {s : State} {p : PinMap} (hs : Shape (initEnd p s)) (hwire : s.wire = [])
    (hframes : s.frames = []) : TraceOk (initEnd p s) where
  shape := hs
  idle := ⟨rfl, rfl⟩
  observed := by
    show probeOf s.cfg.imageLen (s.wire ++ busInitEvents s.cfg) =
      ⟨false, false, false, [], s.frames⟩
    rw [hwire, hframes]
    rfl
  shown := by
    intro f hf
    change s.frames.getLast? = some f at hf
    rw [hframes] at hf
    cases hf

/-! ## The statements -/

/-- Every host command keeps the invariant of a command boundary. -/
theorem HostNext.inv {i : Instr} {s t : State} (hn : HostNext s i t) (h : Inv s) : Inv t := by
  obtain ⟨hc, hirq, -⟩ := inv_iff.mp h
  cases hn with
  | init p => exact inv_initEnd p h.config h.reading h.shape.cells h.shape.outputs
  | showScore _ pat _ _ width =>
    exact inv_iff.mpr ⟨hc.showPattern width, (showPattern_irqHold s pat).trans hirq, rfl⟩
  | clearSegments _ =>
    exact inv_iff.mpr ⟨hc.showPattern List.length_replicate,
      (showPattern_irqHold s _).trans hirq, rfl⟩
  | showMessage src highScore _ =>
    refine inv_iff.mpr ⟨hc.showMessageEnd src highScore, ?_, rfl⟩
    rw [setStatus_irqHold, enqueue_irqHold, enqueue_irqHold, enqueue_irqHold]
    exact hirq
  | clearLcd _ =>
    refine inv_iff.mpr ⟨hc.enqueueClear.setStatus .ok, ?_, rfl⟩
    rw [setStatus_irqHold, enqueue_irqHold]
    exact hirq
  | pollLcd u _ drained =>
    have hu := (hc.setIrqHold true).of_drainOne drained
    exact inv_iff.mpr ⟨(hu.setIrqHold false).setStatus .ok, rfl, rfl⟩

/-- Settles O42, by cases on the host command the step runs. -/
theorem stepKeepsTheInvariant : Obligations.StepKeepsTheInvariant := by
  intro s t h hstep
  rcases step_hostNext hstep with ⟨-, rfl⟩ | ⟨i, rest, -, hn⟩
  · exact h
  · obtain ⟨hc, hirq, hstatus⟩ := inv_iff.mp h
    exact hn.inv (inv_iff.mpr ⟨hc.setHost rest, hirq, hstatus⟩)

/-- Settles O43, by the end state of `INIT`. -/
theorem initEstablishesTheInvariant : Obligations.InitEstablishesTheInvariant := by
  intro s t p hok hgap hcells houtputs h
  rw [exec_init] at h
  obtain rfl := Host.Outcome.next.inj h
  exact inv_initEnd p hok hgap hcells houtputs

/-- Settles O57, by the end state of `INIT` on a block that sent nothing. -/
theorem firstInitStartsTheBlock : Obligations.FirstInitStartsTheBlock := by
  intro s p h hok hgap
  have hinv := inv_initEnd p hok hgap h.shape.cells h.shape.outputs
  refine ⟨initEnd p s, exec_init p s, hinv, traceOk_initEnd hinv.shape h.wire h.frames, ?_, ?_,
    h.frames, rfl, rfl⟩
  · simp [initEnd, h.uninitialized]
  · simp [initEnd, h.wire]

/-- Settles O41: another `INIT` at reset would add its events to the wire and change nothing else,
and the invariant does not speak of the wire. -/
theorem resetMeetsTheInvariant : Obligations.ResetMeetsTheInvariant := by
  have h : Inv (initEnd resetPins State.reset) :=
    inv_initEnd resetPins platform_ok platform_lenCountsGap List.length_replicate
      List.length_replicate
  exact { h with shape := { h.shape with } }

/-- What power-on leaves unspecified has its width, and the buffer its form. -/
theorem shape_powerOnFrom (u : State) : Shape (State.powerOnFrom u) :=
  ⟨length_entries _ _, length_entries _ _, length_entries _ _, ofBytes_wf _⟩

/-- Settles O56, for every value of the unspecified state. -/
theorem powerOnHoldsItsColumn : Obligations.PowerOnHoldsItsColumn := by
  have h (u : State) : PowerOn (State.powerOnFrom u) :=
    ⟨rfl, rfl, rfl, shape_powerOnFrom u, rfl, rfl⟩
  exact ⟨h, h State.unspecified⟩

end Sys2Proof.Machine
end

section
/-! SUPPORT. The receiver model (20_memory.md R57): which events move the cells and the outputs of
the chain, and what a whole image leaves in them (20_memory.md R58). -/

namespace Sys2Proof.Machine

/-! ## One event -/

theorem cellsAfter_rise {p : Pins} (h : p.sck = false) (sr : List Level) :
    cellsAfter p sr .sck true = (p.sdi :: sr).take sr.length := by
  simp [cellsAfter, h]

theorem outputsAfter_rise {p : Pins} (h : p.rck = false) (sr out : List Level) :
    outputsAfter p sr out .rck true = sr := by
  simp [outputsAfter, h]

/-- Only a rising edge of SCK moves the cells. -/
theorem cellsAfter_of_not_rise {p : Pins} {P : Line} {b : Level}
    (h : ¬(P = .sck ∧ b = true ∧ p.sck = false)) (sr : List Level) : cellsAfter p sr P b = sr := by
  unfold cellsAfter
  split
  next =>
    have hsck : p.sck = true := by simpa using h
    rw [if_pos hsck]
  next => rfl

/-- Only a rising edge of RCK moves the outputs. -/
theorem outputsAfter_of_not_rise {p : Pins} {P : Line} {b : Level}
    (h : ¬(P = .rck ∧ b = true ∧ p.rck = false)) (sr out : List Level) :
    outputsAfter p sr out P b = out := by
  unfold outputsAfter
  split
  next =>
    have hrck : p.rck = true := by simpa using h
    rw [if_pos hrck]
  next => rfl

/-! ## A whole image -/

/-- The first byte of an image fills the first eight cells, its bit 7 in cell 0. -/
theorem chainImage_cons (v : Byte) (x : List Byte) :
    chainImage (v :: x) = (byteBits v).reverse ++ chainImage x := by
  rw [chainImage, List.length_cons, Nat.mul_succ, Nat.add_comm, List.range_add, List.map_append,
    List.map_map]
  congr 1
  refine List.map_congr_left fun k _ => ?_
  have hdiv : (8 + k) / 8 = k / 8 + 1 := by omega
  have hmod : (8 + k) % 8 = k % 8 := by omega
  rw [Function.comp_apply, hdiv, hmod, List.getD_cons_succ]

/-- The last bit sent ends in cell 0, so the chain holds the sent bits in reverse. -/
theorem reverse_imageBits (x : List Byte) : (imageBits x).reverse = chainImage x := by
  rw [imageBits, List.reverse_flatMap, List.reverse_reverse]
  induction x with
  | nil => rfl
  | cons v x ih => rw [List.flatMap_cons, ih, chainImage_cons, Function.comp_apply]

@[simp] theorem length_chainImage (x : List Byte) : (chainImage x).length = 8 * x.length := by
  simp [chainImage]

/-- A chain as wide as the image holds nothing else after the shift (20_memory.md R58). -/
theorem take_reverse_imageBits {x : List Byte} {sr : List Level} (h : sr.length = 8 * x.length) :
    ((imageBits x).reverse ++ sr).take sr.length = chainImage x := by
  rw [reverse_imageBits]
  exact List.take_left' (by rw [length_chainImage, h])

/-! ## The statements -/

/-- Settles O13: the sent bits fill the whole chain, so that every prior cell is shifted out. -/
theorem refreshFillsTheChain : Obligations.RefreshFillsTheChain := by
  intro s hshape ⟨hsck, hrck⟩
  have hwidth : s.sr.length = 8 * s.x.length := by rw [hshape.cells, hshape.image]
  rw [refresh_eq hsck hrck]
  exact ⟨take_reverse_imageBits hwidth, take_reverse_imageBits hwidth⟩

/-- Settles O11, by the three kinds of event: an edge of SCK, an edge of RCK, any other. -/
theorem chainActsOnRisingEdges : Obligations.ChainActsOnRisingEdges := by
  refine ⟨fun s hsck => ?_, fun s hrck => ?_, fun s P b hnsck hnrck => ?_⟩
  · rw [setLine_sr, setLine_out, cellsAfter_rise hsck]
    refine ⟨by simp, fun k hk => ?_, fun hpos => ?_, outputsAfter_of_not_rise (by simp) _ _⟩
    · rw [List.getElem?_take_of_lt hk, List.getElem?_cons_succ]
    · rw [List.getElem?_take_of_lt hpos, List.getElem?_cons_zero]
  · rw [setLine_sr, setLine_out]
    exact ⟨outputsAfter_rise hrck _ _, cellsAfter_of_not_rise (by simp) _⟩
  · rw [setLine_sr, setLine_out]
    exact ⟨cellsAfter_of_not_rise hnsck _, outputsAfter_of_not_rise hnrck _ _⟩

end Sys2Proof.Machine
end

section
/-! SUPPORT. The decoder: the operands each command's bytes carry, what the bytes of each format
decode to, and what a step answers to bytes that are no command. -/

namespace Sys2Proof

/-! ## Operands -/

/-- A string without the terminator inside is read up to the terminator after it
(20_memory.md R50(d)). -/
theorem takeString_terminated {src : List Byte} (h : ∀ b ∈ src, b ≠ 0x00#8) (rest : List Byte) :
    takeString (src ++ 0x00#8 :: rest) = some (src, rest) := by
  induction src with
  | nil => rfl
  | cons b src ih =>
    obtain ⟨hb, hsrc⟩ := List.forall_mem_cons.mp h
    rw [List.cons_append, takeString, if_neg hb, ih hsrc]
    rfl

/-- What is read as a string has no terminator inside and one after it. -/
theorem takeString_some {bs src rest : List Byte} (h : takeString bs = some (src, rest)) :
    (∀ b ∈ src, b ≠ 0x00#8) ∧ bs = src ++ 0x00#8 :: rest := by
  induction bs generalizing src with
  | nil => cases h
  | cons b bs ih =>
    rw [takeString] at h
    split at h
    next hb =>
      cases h
      exact ⟨by simp, by rw [hb, List.nil_append]⟩
    next hb =>
      obtain ⟨⟨tail, rest⟩, htail, heq⟩ := Option.map_eq_some_iff.mp h
      cases heq
      obtain ⟨hsrc, hbs⟩ := ih htail
      exact ⟨List.forall_mem_cons.mpr ⟨hb, hsrc⟩, by rw [hbs, List.cons_append]⟩

theorem decodeInit_eq_ok_iff {bs rest : List Byte} {i : Instr} :
    decodeInit bs = .ok (i, rest) ↔
      ∃ p : PinMap, i = .init p ∧ bs = p.sdi :: p.sck :: p.rck :: p.clr :: p.oe :: rest := by
  constructor
  · intro h
    unfold decodeInit at h
    split at h
    · cases h; exact ⟨_, rfl, rfl⟩
    · cases h
  · rintro ⟨p, rfl, rfl⟩
    rfl

/-- A score is its two bytes, the low one first (log 3). -/
theorem decodeShowScore_eq_ok_iff {bs rest : List Byte} {i : Instr} :
    decodeShowScore bs = .ok (i, rest) ↔
      ∃ n : Score, i = .showScore n ∧ bs = n.extractLsb' 0 8 :: n.extractLsb' 8 8 :: rest := by
  constructor
  · intro h
    unfold decodeShowScore at h
    split at h
    next lo hi rest =>
      cases h
      exact ⟨hi ++ lo, rfl, by
        rw [BitVec.extractLsb'_append_eq_right, BitVec.extractLsb'_append_eq_left]⟩
    · cases h
  · rintro ⟨n, rfl, rfl⟩
    have hn : n.extractLsb' 8 8 ++ n.extractLsb' 0 8 = n :=
      (BitVec.extractLsb'_append_extractLsb'_eq_extractLsb' rfl).trans BitVec.extractLsb'_eq_self
    rw [decodeShowScore, hn]

theorem decodeShowMessage_eq_ok_iff {bs rest : List Byte} {i : Instr} :
    decodeShowMessage bs = .ok (i, rest) ↔
      ∃ (flag : Byte) (src : List Byte), i = .showMessage src (flag.getLsbD 0) ∧
        (∀ b ∈ src, b ≠ 0x00#8) ∧ bs = flag :: (src ++ 0x00#8 :: rest) := by
  constructor
  · intro h
    unfold decodeShowMessage at h
    split at h
    · split at h
      next htake =>
        cases h
        obtain ⟨hsrc, rfl⟩ := takeString_some htake
        exact ⟨_, _, rfl, hsrc, rfl⟩
      · cases h
    · cases h
  · rintro ⟨flag, src, rfl, hsrc, rfl⟩
    simp only [decodeShowMessage, takeString_terminated hsrc]

theorem wellFormed_showMessage_iff {src : List Byte} {highScore : Bool} :
    WellFormed (.showMessage src highScore) ↔ ∀ b ∈ src, b ≠ 0x00#8 := by
  simp [WellFormed, wellFormed]

/-! ## The two formats -/

/-- A queue slot is one byte and holds an LCD opcode (30_encoding.md R71, R84). -/
theorem decodeOp_ok {bs rest : List Byte} {i : Instr} (h : decodeOp bs = .ok (i, rest)) :
    WellFormed i ∧ formatOf i = .fOp ∧ ∃ b, bs = b :: rest := by
  cases bs with
  | nil => cases h
  | cons b bs =>
    simp only [decodeOp] at h
    split at h
    all_goals cases h
    all_goals exact ⟨rfl, rfl, b, rfl⟩

/-- A host command is the byte of its code and the bytes of its operands (30_encoding.md R79,
R85). -/
theorem decodeHost_ok {bs rest : List Byte} {i : Instr} (h : decodeHost bs = .ok (i, rest)) :
    WellFormed i ∧ formatOf i = .fHost ∧ ∃ b operands, bs = b :: operands ++ rest := by
  cases bs with
  | nil => cases h
  | cons b bs =>
    simp only [decodeHost] at h
    split at h
    · obtain ⟨p, rfl, rfl⟩ := decodeInit_eq_ok_iff.mp h
      exact ⟨rfl, rfl, b, [p.sdi, p.sck, p.rck, p.clr, p.oe], rfl⟩
    · obtain ⟨n, rfl, rfl⟩ := decodeShowScore_eq_ok_iff.mp h
      exact ⟨rfl, rfl, b, [n.extractLsb' 0 8, n.extractLsb' 8 8], rfl⟩
    · obtain ⟨flag, src, rfl, hsrc, rfl⟩ := decodeShowMessage_eq_ok_iff.mp h
      exact ⟨wellFormed_showMessage_iff.mpr hsrc, rfl, b, flag :: (src ++ [0x00#8]), by simp⟩
    all_goals cases h
    all_goals exact ⟨rfl, rfl, b, [], rfl⟩

/-- A code has 3 bits (30_encoding.md R79). -/
theorem codeOf_lt (b : Byte) : codeOf b < 8 := (b.extractLsb' 0 3).isLt

/-- Command codes 6 and 7 are reserved (30_encoding.md R88). -/
theorem decodeHost_reserved {b : Byte} (h : 6 ≤ codeOf b) (rest : List Byte) :
    decodeHost (b :: rest) = .error (.reservedCommand (codeOf b)) := by
  have hlt := codeOf_lt b
  obtain hcode | hcode : codeOf b = 6 ∨ codeOf b = 7 := by omega
  all_goals simp only [decodeHost, hcode]

/-- Opcode number 7 is in no opcode set (30_encoding.md R87). -/
theorem decodeOp_reserved {b : Byte} (h : codeOf b = 7) (rest : List Byte) :
    decodeOp (b :: rest) = .error .reservedOpcode := by
  simp only [decodeOp, h]

end Sys2Proof

namespace Sys2Proof.Machine

/-- Bytes on the channel that are no command are refused (44_facade.md R204). -/
theorem step_of_decode_error {s : State} {r : Reject} (hne : s.host ≠ [])
    (h : decode .fHost s.host = .error r) : step s = .refused (refusalOf r) := by
  unfold step fetch
  cases hs : s.host with
  | nil => exact absurd hs hne
  | cons b bs =>
    rw [hs] at h
    simp only [h]

/-! ## The statements -/

/-- Settles O1, by cases on the instruction; the operands by the inversion of their decoders. -/
theorem decodeOfEncode : Obligations.DecodeOfEncode := by
  intro i rest hwf
  cases i with
  | showScore n => exact decodeShowScore_eq_ok_iff.mpr ⟨n, rfl, rfl⟩
  | showMessage src highScore =>
    have hsrc := wellFormed_showMessage_iff.mp hwf
    have hflag : (if highScore then 0x01#8 else 0x00#8).getLsbD 0 = highScore := by
      cases highScore <;> rfl
    show decodeShowMessage (_ :: (src ++ [0x00#8] ++ rest)) = _
    refine decodeShowMessage_eq_ok_iff.mpr ⟨_, src, congrArg _ hflag.symm, hsrc, ?_⟩
    rw [List.append_assoc, List.singleton_append]
  | _ => rfl

/-- Settles O2, by cases on the format. -/
theorem decodedIsWellFormed : Obligations.DecodedIsWellFormed := by
  intro f bs i rest h
  cases f with
  | fOp =>
    obtain ⟨hwf, hf, b, rfl⟩ := decodeOp_ok h
    exact ⟨hwf, hf, [b], List.cons_ne_nil _ _, rfl⟩
  | fHost =>
    obtain ⟨hwf, hf, b, operands, rfl⟩ := decodeHost_ok h
    exact ⟨hwf, hf, b :: operands, List.cons_ne_nil _ _, rfl⟩

/-- Settles O3: each conjunct evaluates a closed word. -/
theorem handWrittenWordsDecode : Obligations.HandWrittenWordsDecode :=
  ⟨rfl, rfl, rfl, rfl, rfl⟩

/-- Settles O6, by what the decoder answers to the bytes and what a step answers to its error. -/
theorem bytesThatAreNoCommandAreRefused : Obligations.BytesThatAreNoCommandAreRefused := by
  refine ⟨fun s b rest hs hb => ?_, fun b rest hb => decodeOp_reserved hb rest, fun s h => ?_⟩
  · refine step_of_decode_error (r := .reservedCommand (codeOf b)) ?_ ?_
    · rw [hs]; exact List.cons_ne_nil _ _
    · rw [hs]; exact decodeHost_reserved hb rest
  · refine step_of_decode_error (fun hnil => ?_) h
    rw [hnil] at h
    cases h

end Sys2Proof.Machine
end

section
/-! SUPPORT. The enable pulse: the three images it sends, bit by bit (30_encoding.md R83). -/

namespace Sys2Proof.Machine

/-! ## The frames -/

@[simp] theorem pulse_frames (s : State) (P : Line) : (s.pulse P).frames = s.frames := rfl

@[simp] theorem shiftBits_frames (s : State) (bs : List Level) :
    (s.shiftBits bs).frames = s.frames := by
  induction bs generalizing s with
  | nil => rfl
  | cons b bs ih => rw [State.shiftBits, ih, pulse_frames, setLine_frames]

/-- A refresh sends one frame, the image, whatever the levels of the clocks. -/
@[simp] theorem refresh_frames (s : State) : s.refresh.frames = s.frames ++ [s.x] := by
  have hx : ((s.shiftBits (imageBits s.x)).pulse .rck).x = s.x :=
    ((shiftBits_frame s _).trans (pulse_frame _ .rck)).x
  rw [State.refresh, recordFrame_frames, pulse_frames, shiftBits_frames, hx]

/-! ## The enable bit -/

theorem getLsbD_enMask (c : Config) (j : Nat) :
    c.enMask.getLsbD j = decide (j = c.enBit.val) := by
  show (BitVec.twoPow 8 c.enBit.val).getLsbD j = _
  simp [BitVec.getLsbD_twoPow, eq_comm]

theorem getLsbD_enableLow (c : Config) (v : Byte) {j : Nat} (hj : j < 8) :
    (enableLow c v).getLsbD j = if j = c.enBit.val then false else v.getLsbD j := by
  rw [enableLow, BitVec.getLsbD_and, BitVec.getLsbD_not, getLsbD_enMask]
  split <;> simp [*]

theorem getLsbD_enableHigh (c : Config) (v : Byte) {j : Nat} (hj : j < 8) :
    (enableHigh c v).getLsbD j = if j = c.enBit.val then true else v.getLsbD j := by
  rw [enableHigh, BitVec.getLsbD_or, getLsbD_enMask]
  split <;> simp [*]

/-- Only the enable bit is forced, so forcing it again forgets the first time. -/
theorem enableLow_enableHigh (c : Config) (v : Byte) :
    enableLow c (enableHigh c v) = enableLow c v := by
  ext j hj
  simp only [← BitVec.getLsbD_eq_getElem, getLsbD_enableLow c _ hj, getLsbD_enableHigh c _ hj]
  split <;> rfl

theorem enableHigh_enableLow (c : Config) (v : Byte) :
    enableHigh c (enableLow c v) = enableHigh c v := by
  ext j hj
  simp only [← BitVec.getLsbD_eq_getElem, getLsbD_enableLow c _ hj, getLsbD_enableHigh c _ hj]
  split <;> rfl

/-! ## The two images -/

@[simp] theorem length_strobeLow (c : Config) (f : List Byte) :
    (strobeLow c f).length = f.length := List.length_set

@[simp] theorem length_strobeHigh (c : Config) (f : List Byte) :
    (strobeHigh c f).length = f.length := List.length_set

theorem getD_strobeLow_ctrl {c : Config} {f : List Byte} (h : c.ctrl < f.length) :
    (strobeLow c f).getD c.ctrl 0x00#8 = enableLow c (f.getD c.ctrl 0x00#8) := by
  simp [strobeLow, enableLow, h]

theorem getD_strobeHigh_ctrl {c : Config} {f : List Byte} (h : c.ctrl < f.length) :
    (strobeHigh c f).getD c.ctrl 0x00#8 = enableHigh c (f.getD c.ctrl 0x00#8) := by
  simp [strobeHigh, enableHigh, h]

theorem getD_strobeLow_ne (c : Config) (f : List Byte) {i : Nat} (h : i ≠ c.ctrl) :
    (strobeLow c f).getD i 0x00#8 = f.getD i 0x00#8 := by
  simp [strobeLow, List.getElem?_set_ne h.symm]

theorem getD_strobeHigh_ne (c : Config) (f : List Byte) {i : Nat} (h : i ≠ c.ctrl) :
    (strobeHigh c f).getD i 0x00#8 = f.getD i 0x00#8 := by
  simp [strobeHigh, List.getElem?_set_ne h.symm]

theorem strobeHigh_strobeLow {c : Config} {f : List Byte} (h : c.ctrl < f.length) :
    strobeHigh c (strobeLow c f) = strobeHigh c f := by
  show (strobeLow c f).set c.ctrl (enableHigh c _) = f.set c.ctrl (enableHigh c _)
  rw [getD_strobeLow_ctrl h, enableHigh_enableLow, strobeLow, List.set_set]

theorem strobeLow_strobeHigh {c : Config} {f : List Byte} (h : c.ctrl < f.length) :
    strobeLow c (strobeHigh c f) = strobeLow c f := by
  show (strobeHigh c f).set c.ctrl (enableLow c _) = f.set c.ctrl (enableLow c _)
  rw [getD_strobeHigh_ctrl h, enableLow_enableHigh, strobeHigh, List.set_set]

/-! ## The three refreshes -/

/-- The first and the last third of an enable pulse (42_lcd_queue.md R155). -/
def State.refreshLow (s : State) : State :=
  (s.setReg s.cfg.ctrl (enableLow s.cfg (s.getReg s.cfg.ctrl))).refresh

/-- The middle third of an enable pulse (42_lcd_queue.md R155). -/
def State.refreshHigh (s : State) : State :=
  (s.setReg s.cfg.ctrl (enableHigh s.cfg (s.getReg s.cfg.ctrl))).refresh

theorem pulseEnable_eq (s : State) : s.pulseEnable = s.refreshLow.refreshHigh.refreshLow := rfl

@[simp] theorem refreshLow_cfg (s : State) : s.refreshLow.cfg = s.cfg := refresh_cfg _
@[simp] theorem refreshLow_x (s : State) : s.refreshLow.x = strobeLow s.cfg s.x := refresh_x _
@[simp] theorem refreshLow_frames (s : State) :
    s.refreshLow.frames = s.frames ++ [strobeLow s.cfg s.x] := refresh_frames _

@[simp] theorem refreshHigh_cfg (s : State) : s.refreshHigh.cfg = s.cfg := refresh_cfg _
@[simp] theorem refreshHigh_x (s : State) : s.refreshHigh.x = strobeHigh s.cfg s.x := refresh_x _
@[simp] theorem refreshHigh_frames (s : State) :
    s.refreshHigh.frames = s.frames ++ [strobeHigh s.cfg s.x] := refresh_frames _

/-- `PULSE_ENABLE` sends the image with the enable bit clear, set and clear (42_lcd_queue.md
R155). -/
theorem pulseEnable_frames {s : State} (h : s.cfg.ctrl < s.x.length) :
    s.pulseEnable.frames =
      s.frames ++ [strobeLow s.cfg s.x, strobeHigh s.cfg s.x, strobeLow s.cfg s.x] := by
  simp [pulseEnable_eq, strobeHigh_strobeLow h, strobeLow_strobeHigh h]

/-! ## The statement -/

/-- Settles O16: the three frames are the image strobed low, high and low, and each control byte is
read bit by bit. -/
theorem enablePulseKeepsOtherBits : Obligations.EnablePulseKeepsOtherBits := by
  intro s hlen
  have hctrl : s.cfg.ctrl < s.x.length := by
    rw [hlen]; exact Nat.lt_add_of_pos_right Nat.two_pos
  refine ⟨strobeLow s.cfg s.x, strobeHigh s.cfg s.x, pulseEnable_frames hctrl,
    length_strobeLow _ _, length_strobeHigh _ _, fun i hi => ?_, fun j hj => ?_⟩
  · exact ⟨getD_strobeLow_ne _ _ hi, getD_strobeHigh_ne _ _ hi⟩
  · rw [getD_strobeLow_ctrl hctrl, getD_strobeHigh_ctrl hctrl]
    exact ⟨getLsbD_enableLow _ _ hj, getLsbD_enableHigh _ _ hj⟩

end Sys2Proof.Machine
end

section
/-! SUPPORT. The class of a source byte (30_encoding.md R92): one rule for each branch of
`decodeChar`, and what keeps the classes of a legal configuration apart. -/

namespace Sys2Proof.Machine

/-! ## The branches -/

theorem decodeChar_of_seqA {c : Config} {b : Byte} {bs : List Byte} (hb : b ≠ 0x00#8)
    (hA : c.seqA <+: b :: bs) : decodeChar c (b :: bs) = some (c.glyphA, c.seqA.length) := by
  rw [decodeChar, if_neg hb, if_pos (List.isPrefixOf_iff_prefix.mpr hA)]

theorem decodeChar_of_seqO {c : Config} {b : Byte} {bs : List Byte} (hb : b ≠ 0x00#8)
    (hA : ¬c.seqA <+: b :: bs) (hO : c.seqO <+: b :: bs) :
    decodeChar c (b :: bs) = some (c.glyphO, c.seqO.length) := by
  rw [decodeChar, if_neg hb, if_neg (mt List.isPrefixOf_iff_prefix.mp hA),
    if_pos (List.isPrefixOf_iff_prefix.mpr hO)]

/-- A byte that starts neither sequence stands for itself or for a blank. -/
theorem decodeChar_of_single {c : Config} {b : Byte} {bs : List Byte} (hb : b ≠ 0x00#8)
    (hA : ¬c.seqA <+: b :: bs) (hO : ¬c.seqO <+: b :: bs) :
    decodeChar c (b :: bs) =
      if 32 ≤ b.toNat ∧ b.toNat ≤ 127 then some (b, 1) else some (blankCode, 1) := by
  rw [decodeChar, if_neg hb, if_neg (mt List.isPrefixOf_iff_prefix.mp hA),
    if_neg (mt List.isPrefixOf_iff_prefix.mp hO)]

/-! ## The classes are apart -/

/-- A special sequence has a first byte, neither the terminator nor printable (00_scope.md R10). -/
theorem exists_head_of_sequenceOk {q : List Byte} (h : SequenceOk q) :
    ∃ b bs, q = b :: bs ∧ b ≠ 0x00#8 ∧ ¬(32 ≤ b.toNat ∧ b.toNat ≤ 127) := by
  obtain ⟨hnonzero, hfirst⟩ := h
  cases q with
  | nil => cases hfirst
  | cons b bs => exact ⟨b, bs, rfl, hnonzero b List.mem_cons_self, of_decide_eq_true hfirst⟩

/-- A printable byte starts no special sequence. -/
theorem not_prefix_of_printable {q : List Byte} (h : SequenceOk q) {b : Byte}
    (hb : 32 ≤ b.toNat ∧ b.toNat ≤ 127) (rest : List Byte) : ¬q <+: b :: rest := by
  obtain ⟨a, as, rfl, -, hunprintable⟩ := exists_head_of_sequenceOk h
  intro hprefix
  obtain ⟨rfl, -⟩ := List.cons_prefix_cons.mp hprefix
  exact hunprintable hb

/-- Of two sequences, neither the start of the other, bytes that start with one do not start with the
other. -/
theorem not_prefix_append {p q : List Byte} (hpq : p.isPrefixOf q = false)
    (hqp : q.isPrefixOf p = false) (rest : List Byte) : ¬p <+: q ++ rest := by
  intro h
  rcases List.prefix_or_prefix_of_prefix h (List.prefix_append q rest) with hp | hq
  · exact Bool.false_ne_true (hpq.symm.trans (List.isPrefixOf_iff_prefix.mpr hp))
  · exact Bool.false_ne_true (hqp.symm.trans (List.isPrefixOf_iff_prefix.mpr hq))

/-! ## The classes of a legal configuration -/

theorem decodeChar_seqA {c : Config} (h : c.Ok) (rest : List Byte) :
    decodeChar c (c.seqA ++ rest) = some (c.glyphA, c.seqA.length) := by
  obtain ⟨-, -, -, -, -, hseqA, -, -, -⟩ := h
  obtain ⟨b, bs, hA, hb, -⟩ := exists_head_of_sequenceOk hseqA
  have hbytes : c.seqA ++ rest = b :: (bs ++ rest) := by rw [hA, List.cons_append]
  have hprefix : c.seqA <+: c.seqA ++ rest := List.prefix_append _ _
  rw [hbytes] at hprefix ⊢
  exact decodeChar_of_seqA hb hprefix

theorem decodeChar_seqO {c : Config} (h : c.Ok) (rest : List Byte) :
    decodeChar c (c.seqO ++ rest) = some (c.glyphO, c.seqO.length) := by
  obtain ⟨-, -, -, -, -, -, hseqO, hAO, hOA⟩ := h
  obtain ⟨b, bs, hO, hb, -⟩ := exists_head_of_sequenceOk hseqO
  have hbytes : c.seqO ++ rest = b :: (bs ++ rest) := by rw [hO, List.cons_append]
  have hnotA : ¬c.seqA <+: c.seqO ++ rest := not_prefix_append hAO hOA rest
  have hprefix : c.seqO <+: c.seqO ++ rest := List.prefix_append _ _
  rw [hbytes] at hnotA hprefix ⊢
  exact decodeChar_of_seqO hb hnotA hprefix

theorem decodeChar_printable {c : Config} (h : c.Ok) {b : Byte}
    (hb : 32 ≤ b.toNat ∧ b.toNat ≤ 127) (rest : List Byte) :
    decodeChar c (b :: rest) = some (b, 1) := by
  obtain ⟨-, -, -, -, -, hseqA, hseqO, -, -⟩ := h
  have hnonzero : b ≠ 0x00#8 := by rintro rfl; exact absurd hb.1 (by decide)
  rw [decodeChar_of_single hnonzero (not_prefix_of_printable hseqA hb rest)
    (not_prefix_of_printable hseqO hb rest), if_pos hb]

/-! ## The statement -/

/-- Settles O24, one class at a time. -/
theorem sourceBytesByClass : Obligations.SourceBytesByClass := by
  intro c rest hok
  refine ⟨decodeChar_seqA hok rest, decodeChar_seqO hok rest,
    fun b hlow hhigh => decodeChar_printable hok ⟨hlow, hhigh⟩ rest,
    fun b hb hunprintable hA hO => ?_, rfl⟩
  rw [decodeChar_of_single hb hA hO, if_neg hunprintable]

end Sys2Proof.Machine
end

section
/-! SUPPORT. The bus with its clocks at any level: what `SET_LINE`, `PULSE` and `REFRESH` put on the
wire and leave on the lines (40_bus.md R102 to R106). -/

namespace Sys2Proof.Machine

/-! ## One line -/

/-- The levels after one line was driven: one case for each of the two lines (00_scope.md R15). -/
theorem lineLevel_drive (p : Pins) (P Q : Line) (b : Level) :
    lineLevel (p.drive P b) Q = if Q = P then b else lineLevel p Q := by
  cases P <;> cases Q <;> rfl

/-- Settles O10, by what a read of the lines sees after one was driven. -/
theorem setLineAppendsItsEvent : Obligations.SetLineAppendsItsEvent := by
  intro s P b
  refine ⟨rfl, ?_, fun Q hQ => ?_, rfl⟩
  · rw [setLine_pin, lineLevel_drive, if_pos rfl]
  · rw [setLine_pin, lineLevel_drive, if_neg hQ]

/-! ## The bits of an image -/

theorem imageBits_cons (v : Byte) (x : List Byte) :
    imageBits (v :: x) = imageBits x ++ byteBits v := by
  simp [imageBits]

@[simp] theorem length_imageBits (x : List Byte) : (imageBits x).length = 8 * x.length := by
  rw [← List.length_reverse, reverse_imageBits, length_chainImage]

theorem getElem_chainImage {x : List Byte} {k : Nat} (h : k < (chainImage x).length) :
    (chainImage x)[k] = (x.getD (k / 8) 0x00#8).getLsbD (7 - k % 8) := by
  simp [chainImage]

/-- Bit `t` sent is the bit of the closed form (20_memory.md R55): the chain holds the sent bits in
reverse. -/
theorem imageBits_eq_wireBits (x : List Byte) :
    imageBits x = (List.range (8 * x.length)).map (wireBit x) := by
  rw [← List.reverse_reverse (imageBits x), reverse_imageBits]
  refine List.ext_getElem (by simp) fun t h1 h2 => ?_
  have ht : t < 8 * x.length := by simpa using h2
  have hbyte : (8 * x.length - 1 - t) / 8 = x.length - 1 - t / 8 := by omega
  have hbit : 7 - (8 * x.length - 1 - t) % 8 = t % 8 := by omega
  simp only [List.getElem_reverse, getElem_chainImage, length_chainImage, List.getElem_map,
    List.getElem_range, wireBit, hbyte, hbit]

/-- The last bit sent is bit 7 of entry 0 (40_bus.md R104). -/
theorem getLastD_imageBits {x : List Byte} (h : x ≠ []) (d : Level) :
    (imageBits x).getLastD d = (x.getD 0 0x00#8).getLsbD 7 := by
  obtain ⟨v, xs, rfl⟩ := List.exists_cons_of_ne_nil h
  have hbits : byteBits v = (List.range 7).map (fun i => v.getLsbD i) ++ [v.getLsbD 7] := rfl
  rw [imageBits_cons, hbits, ← List.append_assoc, List.getLastD_concat]
  rfl

/-! ## The wire and the lines -/

@[simp] theorem pulse_wire (s : State) (P : Line) :
    (s.pulse P).wire = s.wire ++ [⟨P, true⟩, ⟨P, false⟩] :=
  List.append_assoc _ _ _

/-- Each bit is its three events, whatever the levels of the clocks. -/
@[simp] theorem shiftBits_wire (s : State) (bs : List Level) :
    (s.shiftBits bs).wire = s.wire ++ bs.flatMap bitEvents := by
  induction bs generalizing s with
  | nil => exact (List.append_nil _).symm
  | cons b bs ih => simp [State.shiftBits, ih]

/-- One bit or more leaves SCK at 0, whatever its level was. -/
theorem shiftBits_pin {bs : List Level} (h : bs ≠ []) (s : State) :
    (s.shiftBits bs).pin = { s.pin with sdi := bs.getLastD s.pin.sdi, sck := false } := by
  induction bs generalizing s with
  | nil => exact absurd rfl h
  | cons b bs ih =>
    cases bs with
    | nil => rfl
    | cons c bs => rw [State.shiftBits, ih (List.cons_ne_nil c bs)]; rfl

/-- The events of a refresh are those of its bits and the latch pulse (40_bus.md R104). -/
theorem refreshEvents_eq (x : List Byte) :
    refreshEvents x = (imageBits x).flatMap bitEvents ++ [⟨.rck, true⟩, ⟨.rck, false⟩] := by
  rw [imageBits_eq_wireBits, List.flatMap_map]
  rfl

theorem refresh_wire (s : State) : s.refresh.wire = s.wire ++ refreshEvents s.x := by
  rw [State.refresh, recordFrame_wire, pulse_wire, shiftBits_wire, List.append_assoc,
    ← refreshEvents_eq]

/-- SDI keeps the last bit and both clocks end at 0 (40_bus.md R106). -/
theorem refresh_pin {s : State} (h : s.x ≠ []) :
    s.refresh.pin =
      { s.pin with sdi := (s.x.getD 0 0x00#8).getLsbD 7, sck := false, rck := false } := by
  have hbits : imageBits s.x ≠ [] := by
    rw [← List.length_pos_iff, length_imageBits]
    exact Nat.mul_pos (by decide) (List.length_pos_iff.mpr h)
  show ((s.shiftBits (imageBits s.x)).pin.drive .rck true).drive .rck false = _
  rw [shiftBits_pin hbits, getLastD_imageBits h]
  rfl

/-- A state is its bus fields over the state it shares the others with. -/
theorem BusFrame.eq_update {s t : State} (h : BusFrame s t) :
    t = { s with wire := t.wire, pin := t.pin, sr := t.sr, out := t.out, frames := t.frames } := by
  obtain ⟨h1, h2, h3, h4, h5, h6, h7, h8, h9, h10, h11, h12, h13, h14⟩ := h
  rw [State.mk.injEq]
  exact ⟨h1, h2, h3, h4, rfl, h5, h6, h7, h8, h9, h10, h11, h12, h13, h14, rfl, rfl, rfl, rfl⟩

/-- Settles O12: the wire, the lines and the frame in closed form, and the rest kept. -/
theorem refreshSendsTheImage : Obligations.RefreshSendsTheImage := by
  intro s hx
  rw [← refresh_wire, ← refresh_pin hx, ← refresh_frames]
  exact (refresh_frame s).eq_update

/-! ## Counting the events -/

/-- Events that every bit has `n` of are counted by the number of bits. -/
theorem countP_flatMap_bitEvents {p : WireEvent → Bool} {n : Nat}
    (h : ∀ b, (bitEvents b).countP p = n) (bs : List Level) :
    (bs.flatMap bitEvents).countP p = n * bs.length := by
  induction bs with
  | nil => rfl
  | cons b bs ih => rw [List.flatMap_cons, List.countP_append, h, ih, List.length_cons]; ring

/-- The events of a kind in one refresh: so many for each bit, and those of the latch pulse
(40_bus.md R105). -/
theorem countP_refreshEvents {p : WireEvent → Bool} {n : Nat}
    (h : ∀ b, (bitEvents b).countP p = n) (x : List Byte) :
    (refreshEvents x).countP p =
      n * (8 * x.length) + [(⟨.rck, true⟩ : WireEvent), ⟨.rck, false⟩].countP p := by
  rw [refreshEvents_eq, List.countP_append, countP_flatMap_bitEvents h, length_imageBits]

theorem length_refreshEvents (x : List Byte) :
    (refreshEvents x).length = 24 * x.length + 2 := by
  rw [← List.countP_true, countP_refreshEvents (n := 3) (fun _ => rfl)]
  show 3 * (8 * x.length) + 2 = _
  omega

/-- Settles O14: each count is its count in the events of one bit, for every bit, and in the latch
pulse. -/
theorem refreshEventCounts : Obligations.RefreshEventCounts := by
  intro s
  refine ⟨refreshEvents s.x, refresh_wire s, length_refreshEvents s.x, ?_, ?_, ?_, ?_, ?_⟩
  · rw [countP_refreshEvents (n := 1) (by decide)]; exact Nat.one_mul _
  · rw [countP_refreshEvents (n := 1) (by decide)]; exact Nat.one_mul _
  · rw [countP_refreshEvents (n := 1) (by decide)]; exact Nat.one_mul _
  · rw [countP_refreshEvents (n := 0) (by decide), Nat.zero_mul]; rfl
  · rw [countP_refreshEvents (n := 0) (by decide), Nat.zero_mul]; rfl

end Sys2Proof.Machine
end

section
/-! SUPPORT. The observer of the wire (40_bus.md R108) recovers each frame, and every command keeps
the traces in agreement. -/

namespace Sys2Proof.Machine

/-! ## The observer over the events of the bus -/

theorem probeOf_append (len : Nat) (w v : List WireEvent) :
    probeOf len (w ++ v) = v.foldl (Probe.observe len) (probeOf len w) :=
  List.foldl_append

/-- With SCK idle the observer samples each bit shifted. -/
theorem observe_bits (len : Nat) (bs : List Level) (sdi rck : Level) (samples : List Level)
    (frames : List (List Byte)) :
    (bs.flatMap bitEvents).foldl (Probe.observe len) ⟨sdi, false, rck, samples, frames⟩ =
      ⟨bs.getLastD sdi, false, rck, samples ++ bs, frames⟩ := by
  induction bs generalizing sdi samples with
  | nil => rw [List.append_nil]; rfl
  | cons b bs ih =>
    have hbit : (bitEvents b).foldl (Probe.observe len) ⟨sdi, false, rck, samples, frames⟩ =
        ⟨b, false, rck, samples ++ [b], frames⟩ := rfl
    rw [List.flatMap_cons, List.foldl_append, hbit, ih, List.append_assoc, List.singleton_append,
      List.getLastD_cons]

theorem getLsbD_byteOfBits (f : Nat → Level) {b : Nat} (h : b < 8) :
    (byteOfBits f).getLsbD b = f b := by
  unfold byteOfBits
  simp only [BitVec.getLsbD_append, BitVec.getLsbD_ofBool]
  interval_cases b <;> rfl

/-- A byte is its eight bits. -/
theorem byteOfBits_eq {f : Nat → Level} {v : Byte} (h : ∀ b < 8, f b = v.getLsbD b) :
    byteOfBits f = v :=
  BitVec.eq_of_getLsbD_eq fun b hb => (getLsbD_byteOfBits f hb).trans (h b hb)

theorem getD_imageBits {x : List Byte} {t : Nat} (h : t < 8 * x.length) :
    (imageBits x).getD t false = wireBit x t := by
  simp [imageBits_eq_wireBits, h]

/-- The samples of one refresh are the image (40_bus.md R108). -/
theorem frameOfSamples_imageBits (x : List Byte) : frameOfSamples x.length (imageBits x) = x := by
  refine List.ext_getElem (by simp [frameOfSamples]) fun r h1 h2 => ?_
  simp only [frameOfSamples, length_imageBits, Nat.sub_self, List.drop_zero, List.getElem_map,
    List.getElem_range]
  refine byteOfBits_eq fun b hb => ?_
  have hbyte : x.length - 1 - (8 * (x.length - 1 - r) + b) / 8 = r := by omega
  have hbit : (8 * (x.length - 1 - r) + b) % 8 = b := by omega
  rw [getD_imageBits (by omega), wireBit, hbyte, hbit, List.getD_eq_getElem _ _ h2]

/-- From the idle clocks and no samples one refresh makes the observer cut off its image. -/
theorem observe_refreshEvents (x : List Byte) (sdi : Level) (frames : List (List Byte)) :
    (refreshEvents x).foldl (Probe.observe x.length) ⟨sdi, false, false, [], frames⟩ =
      ⟨(imageBits x).getLastD sdi, false, false, [], frames ++ [x]⟩ := by
  have hlatch : [(⟨.rck, true⟩ : WireEvent), ⟨.rck, false⟩].foldl (Probe.observe x.length)
      ⟨(imageBits x).getLastD sdi, false, false, imageBits x, frames⟩ =
      ⟨(imageBits x).getLastD sdi, false, false, [],
        frames ++ [frameOfSamples x.length (imageBits x)]⟩ := rfl
  rw [refreshEvents_eq, List.foldl_append, observe_bits, List.nil_append, hlatch,
    frameOfSamples_imageBits]

/-! ## What keeps the agreement -/

namespace TraceOk

/-- A refresh adds the same frame to both traces and leaves it in the chain (40_bus.md R108,
20_memory.md R58). -/
theorem refresh {s : State} (h : TraceOk s) : TraceOk s.refresh := by
  obtain ⟨hsck, hrck⟩ := h.idle
  obtain ⟨hsck', hrck', -, -⟩ := refresh_idle hsck hrck
  obtain ⟨hcells, houtputs⟩ := refreshFillsTheChain s h.shape h.idle
  have hsdi : s.refresh.pin.sdi = (imageBits s.x).getLastD s.pin.sdi := by
    rw [refresh_eq hsck hrck]
  refine ⟨refresh_shape h.shape h.idle, ⟨hsck', hrck'⟩, ?_, fun f hf => ?_⟩
  · rw [refresh_wire, refresh_cfg, probeOf_append, h.observed, ← h.shape.image,
      observe_refreshEvents, refresh_frames, hsdi]
  · rw [refresh_frames, List.getLast?_concat] at hf
    obtain rfl := Option.some.inj hf
    exact ⟨houtputs, hcells⟩

theorem setReg {s : State} (h : TraceOk s) (i : Nat) (v : Byte) : TraceOk (s.setReg i v) :=
  { h with shape := { h.shape with image := List.length_set.trans h.shape.image } }

theorem setRegs {s : State} (h : TraceOk s) (i : Nat) (bs : List Byte) :
    TraceOk (s.setRegs i bs) := by
  induction bs generalizing s i with
  | nil => exact h
  | cons b bs ih => exact ih (h.setReg i b) (i + 1)

theorem pulseEnable {s : State} (h : TraceOk s) : TraceOk s.pulseEnable :=
  ((((h.setReg _ _).refresh).setReg _ _).refresh.setReg _ _).refresh

/-! ### The fields outside the bus -/

theorem setStatus {s : State} (h : TraceOk s) (v : Status) : TraceOk (s.setStatus v) :=
  { h with shape := { h.shape with } }

theorem setIrqHold {s : State} (h : TraceOk s) (b : Bool) : TraceOk (s.setIrqHold b) :=
  { h with shape := { h.shape with } }

theorem setHost {s : State} (h : TraceOk s) (bs : List Byte) : TraceOk { s with host := bs } :=
  { h with shape := { h.shape with } }

theorem advanceCursor {s : State} (h : TraceOk s) : TraceOk s.advanceCursor :=
  { h with shape := { h.shape with } }

/-- Another queue with other flags. -/
theorem setQueue {s : State} (h : TraceOk s) (q : Vector LcdOp qcap) (armed ovf : Bool) :
    TraceOk { s with q := q, armed := armed, ovf := ovf } :=
  { h with shape := { h.shape with } }

theorem enqueue {s : State} (h : TraceOk s) (op : LcdOp) (mode : EnqueueMode) :
    TraceOk (s.enqueue op mode) := by
  obtain ⟨q, armed, ovf, he⟩ := enqueue_frame s op mode
  rw [he]
  exact h.setQueue q armed ovf

theorem settleQueue {s : State} (h : TraceOk s) (op : LcdOp) : TraceOk (s.settleQueue op) := by
  unfold State.settleQueue
  split
  · exact h
  · exact h.setQueue (shiftQueue s.q) s.armed s.ovf

theorem textEncode {s : State} (h : TraceOk s) (src : List Byte) (scramble : Bool) :
    TraceOk (s.textEncode src scramble) :=
  { h with
    shape := { h.shape with memory := textEncode_wf s src scramble h.shape.memory } }

/-! ### The commands -/

theorem showPattern {s : State} (h : TraceOk s) (pat : List Byte) : TraceOk (s.showPattern pat) :=
  (h.setRegs 0 pat).refresh.setStatus .ok

theorem showMessageEnd {s : State} (h : TraceOk s) (src : List Byte) (highScore : Bool) :
    TraceOk (showMessageEnd s src highScore) :=
  ((((h.textEncode src highScore).enqueue _ _).enqueue _ _).enqueue _ _).setStatus .ok

theorem of_executeOp {op : LcdOp} {s t : State} (h : TraceOk s) (he : executeOp op s = .next t) :
    TraceOk t := by
  rcases executeOp_next he with ⟨-, rfl⟩ | ⟨w, -, rfl⟩ | ⟨-, rfl⟩
  · exact h.setQueue s.q false s.ovf
  · exact (h.setReg _ w).pulseEnable
  · exact ((h.setReg _ _).setReg _ _).pulseEnable.advanceCursor

theorem of_drainOne {s t : State} (h : TraceOk s) (hd : drainOne s = .next t) : TraceOk t := by
  rcases drainOne_next hd with ⟨-, rfl⟩ | ⟨-, u, hu, rfl⟩
  · exact h
  · exact (h.of_executeOp hu).settleQueue _

/-- `INIT` drives both clocks to the level they have, so its five events have no rising edge and cut
off no frame (40_bus.md R100). -/
theorem initEnd {s : State} (h : TraceOk s) (p : PinMap) : TraceOk (initEnd p s) where
  shape := ⟨List.length_replicate, h.shape.cells, h.shape.outputs, wf_nil⟩
  idle := ⟨rfl, rfl⟩
  observed := by
    show probeOf s.cfg.imageLen (s.wire ++ busInitEvents s.cfg) =
      ⟨false, false, false, [], s.frames⟩
    rw [probeOf_append, h.observed]
    rfl
  shown := h.shown

end TraceOk

/-! ## The statements -/

/-- Every host command keeps the traces in agreement. -/
theorem HostNext.traceOk {i : Instr} {s t : State} (hn : HostNext s i t) (h : TraceOk s) :
    TraceOk t := by
  cases hn with
  | init p => exact h.initEnd p
  | showScore _ pat => exact h.showPattern pat
  | clearSegments => exact h.showPattern _
  | showMessage src highScore => exact h.showMessageEnd src highScore
  | clearLcd => exact (h.enqueue _ _).setStatus .ok
  | pollLcd u _ drained =>
    exact (((h.setIrqHold true).of_drainOne drained).setIrqHold false).setStatus .ok

/-- Settles O46, by cases on the host command the step runs. -/
theorem stepKeepsTheTracesInAgreement : Obligations.StepKeepsTheTracesInAgreement := by
  intro s t h hstep
  rcases step_hostNext hstep with ⟨-, rfl⟩ | ⟨i, rest, -, hn⟩
  · exact h
  · exact hn.traceOk (h.setHost rest)

/-- Settles O45: reset is the end state of an `INIT` with nothing sent before it. -/
theorem resetMeetsTheTraceInvariant : Obligations.ResetMeetsTheTraceInvariant := by
  have hinit : State.reset = initEnd resetPins { State.reset with wire := [] } := rfl
  have hshape : Shape State.reset := resetMeetsTheInvariant.shape
  unfold Obligations.ResetMeetsTheTraceInvariant
  rw [hinit] at hshape ⊢
  exact traceOk_initEnd hshape rfl rfl

end Sys2Proof.Machine
end

section
/-! SUPPORT. The segment encoder (41_segment_encoder.md): the digits of a score, the pattern of a
digit list position by position, and what the two segment commands send. -/

namespace Sys2Proof.Machine

/-! ## The digits of a score -/

/-- Each pass of the wraparound takes off one `m` and keeps the remainder. -/
theorem wrapLoop_eq_mod {m : Nat} (hm : 0 < m) {fuel w : Nat} (h : w ≤ fuel) :
    wrapLoop fuel m w = w % m := by
  induction fuel generalizing w with
  | zero => rw [Nat.le_zero.mp h, Nat.zero_mod, wrapLoop]
  | succ fuel ih =>
    rw [wrapLoop]
    split
    next hw => rw [ih (by omega), ← Nat.mod_eq_sub_mod (by omega)]
    next hw => rw [Nat.mod_eq_of_lt (by omega)]

theorem wrapScore_eq_mod (n score : Nat) : wrapScore n score = score % 10 ^ n :=
  wrapLoop_eq_mod (Nat.pow_pos (by decide)) le_rfl

/-- The decomposition, position by position (41_segment_encoder.md R122). -/
theorem digitsOf_eq_map {n v : Nat} (h : v < 10 ^ n) :
    digitsOf n v = (List.range n).map fun i => v / 10 ^ (n - 1 - i) % 10 := by
  induction n generalizing v with
  | zero => rfl
  | succ n ih =>
    have hhead : v / 10 ^ n < 10 := Nat.div_lt_of_lt_mul (by rwa [← pow_succ])
    rw [digitsOf, ih (Nat.mod_lt v (Nat.pow_pos (by decide))), List.range_succ_eq_map,
      List.map_cons, List.map_map]
    congr 1
    · exact (Nat.mod_eq_of_lt hhead).symm
    · refine List.map_congr_left fun i hi => ?_
      have hi' : i < n := List.mem_range.mp hi
      have hpow : 10 ^ n = 10 ^ (n - 1 - i) * 10 ^ (i + 1) := by
        rw [← pow_add]; congr 1; omega
      have hexp : n + 1 - 1 - (i + 1) = n - 1 - i := by omega
      rw [Function.comp_apply, Nat.succ_eq_add_one, hexp, hpow, Nat.mod_mul_right_div_self,
        Nat.mod_mod_of_dvd _ (dvd_pow_self 10 i.succ_ne_zero)]

/-- The digits weighted by their powers of ten add up to the value. -/
theorem sum_digitsOf {n v : Nat} (h : v < 10 ^ n) :
    ((List.range n).map fun i => (digitsOf n v).getD i 0 * 10 ^ (n - 1 - i)).sum = v := by
  induction n generalizing v with
  | zero => exact (Nat.lt_one_iff.mp h).symm
  | succ n ih =>
    have hrest := ih (Nat.mod_lt v (Nat.pow_pos (by decide)))
    have hexp (i : Nat) : n + 1 - 1 - (i + 1) = n - 1 - i := by omega
    rw [List.range_succ_eq_map, List.map_cons, List.sum_cons, List.map_map]
    simp only [Function.comp_def, Nat.succ_eq_add_one, digitsOf, List.getD_cons_succ,
      List.getD_cons_zero, hexp, hrest]
    exact Nat.div_add_mod' v (10 ^ n)

theorem scoreDigits_eq_map (c : Config) (score : Score) :
    scoreDigits c score = (List.range c.nseg).map (digitAt c.nseg score.toNat) := by
  rw [scoreDigits, digitsOf_eq_map (wrapScore_lt _ _), wrapScore_eq_mod]
  rfl

@[simp] theorem length_scoreDigits (c : Config) (score : Score) :
    (scoreDigits c score).length = c.nseg :=
  length_digitsOf _ _

theorem scoreDigits_lt (c : Config) (score : Score) : ∀ d ∈ scoreDigits c score, d < 10 :=
  digitsOf_lt (wrapScore_lt _ _)

/-! ## The run of leading zeros -/

/-- The blank positions: no last position, and nothing but zeros up to it
(41_segment_encoder.md R123). -/
theorem lt_blankCount_iff {ds : List Nat} {i : Nat} :
    i < blankCount ds ↔ i + 1 < ds.length ∧ ∀ j ≤ i, ds.getD j 0 = 0 := by
  induction ds using blankCount.induct generalizing i with
  | case1 => simp [blankCount]
  | case2 d => simp [blankCount]
  | case3 e ds ih =>
    rw [blankCount, if_pos rfl, List.length_cons]
    cases i with
    | zero => simp
    | succ i =>
      rw [Nat.succ_lt_succ_iff, ih, Nat.succ_lt_succ_iff]
      refine and_congr_right fun _ => ⟨fun h j hj => ?_, fun h j hj => h (j + 1) (by omega)⟩
      cases j with
      | zero => rfl
      | succ j => exact h j (by omega)
  | case4 d e ds hd =>
    rw [blankCount, if_neg hd]
    exact ⟨fun h => absurd h (Nat.not_lt_zero i), fun h => absurd (h.2 0 (Nat.zero_le i)) hd⟩

/-- The run stops before the last position. -/
theorem blankCount_lt_length {ds : List Nat} (h : ds ≠ []) : blankCount ds < ds.length := by
  have hpos := List.length_pos_iff.mpr h
  rcases Nat.eq_zero_or_pos (blankCount ds) with hz | hz
  · omega
  · have hlast := (lt_blankCount_iff.mp (Nat.sub_one_lt hz.ne')).1
    omega

theorem getD_of_lt_blankCount {ds : List Nat} {i : Nat} (h : i < blankCount ds) :
    ds.getD i 0 = 0 :=
  (lt_blankCount_iff.mp h).2 i le_rfl

/-- The run stops at a nonzero digit where a position is left after it. -/
theorem getD_blankCount_ne_zero {ds : List Nat} (h : blankCount ds + 1 < ds.length) :
    ds.getD (blankCount ds) 0 ≠ 0 := by
  intro hz
  refine lt_irrefl (blankCount ds) (lt_blankCount_iff.mpr ⟨h, fun j hj => ?_⟩)
  rcases Nat.lt_or_eq_of_le hj with hlt | rfl
  · exact getD_of_lt_blankCount hlt
  · exact hz

/-! ## The pattern of a digit list -/

/-- The byte of position `i` where the first `z` positions are blank (41_segment_encoder.md
R125). -/
def segmentByte (c : Config) (z i d : Nat) : Byte :=
  if i < z then c.segBlank else c.segLut.toList.getD d 0x00#8

/-- Behind the first position the run of blank ones is one shorter. -/
theorem segmentByte_tail (c : Config) (z : Nat) :
    (fun i => segmentByte c z (i + 1)) = segmentByte c (z - 1) := by
  funext i d
  simp only [segmentByte, Nat.lt_sub_iff_add_lt]

theorem segmentByte_of_lt {z i : Nat} (h : i < z) (c : Config) (d : Nat) :
    segmentByte c z i d = c.segBlank :=
  if_pos h

theorem segmentByte_of_le {z i : Nat} (h : z ≤ i) (c : Config) (d : Nat) :
    segmentByte c z i d = c.segLut.toList.getD d 0x00#8 :=
  if_neg (Nat.not_lt.mpr h)

/-- Rendering digits below 10 gives one byte for each position. -/
theorem renderDigits_eq (c : Config) (z : Nat) {ds : List Nat} (h : ∀ d ∈ ds, d < 10) :
    renderDigits c z ds = .ok (ds.mapIdx (segmentByte c z)) := by
  induction ds generalizing z with
  | nil => cases z <;> rfl
  | cons d ds ih =>
    obtain ⟨hd, hds⟩ := List.forall_mem_cons.mp h
    rw [List.mapIdx_cons, segmentByte_tail]
    cases z with
    | zero =>
      have hglyph : lutOrError c d = .ok (c.segLut.toList.getD d 0x00#8) := by
        simp [lutOrError, hd]
      simp only [renderDigits, hglyph, ih 0 hds, segmentByte_of_le le_rfl, Nat.zero_sub]
    | succ z =>
      simp only [renderDigits, ih z hds, segmentByte_of_lt (Nat.succ_pos z), Nat.add_sub_cancel]

theorem patternOf_eq (c : Config) {ds : List Nat} (h : ∀ d ∈ ds, d < 10) :
    patternOf c ds = .ok (ds.mapIdx (segmentByte c (blankCount ds))) :=
  renderDigits_eq c _ h

theorem getD_mapIdx_segmentByte (c : Config) (z : Nat) {ds : List Nat} {i : Nat}
    (h : i < ds.length) :
    (ds.mapIdx (segmentByte c z)).getD i 0x00#8 = segmentByte c z i (ds.getD i 0) := by
  simp [List.getD_eq_getElem?_getD, h]

/-! ## The pattern of a score -/

theorem getD_scoreDigits (c : Config) (score : Score) {i : Nat} (h : i < c.nseg) :
    (scoreDigits c score).getD i 0 = digitAt c.nseg score.toNat i := by
  simp [scoreDigits_eq_map, h]

/-- The run of leading zeros of a score holds its blank positions (41_segment_encoder.md R123). -/
theorem lt_blankCount_scoreDigits_iff (c : Config) (score : Score) (i : Nat) :
    i < blankCount (scoreDigits c score) ↔ BlankAt c.nseg score.toNat i := by
  rw [lt_blankCount_iff, length_scoreDigits]
  exact and_congr_right fun hi =>
    forall₂_congr fun j hj => by rw [getD_scoreDigits c score (by omega)]

/-- The pattern of a score in closed form (41_segment_encoder.md R125). -/
theorem segEncode_eq (c : Config) (score : Score) :
    segEncode c score = .ok ((List.range c.nseg).map (segmentAt c score.toNat)) := by
  have hbyte (i : Nat) : segmentByte c (blankCount (scoreDigits c score)) i
      (digitAt c.nseg score.toNat i) = segmentAt c score.toNat i := by
    simp only [segmentByte, segmentAt, lt_blankCount_scoreDigits_iff]
  rw [segEncode, patternOf_eq c (scoreDigits_lt c score)]
  congr 1
  refine List.ext_getElem (by simp) fun i _ _ => ?_
  simp [scoreDigits_eq_map c score, ← hbyte]

/-! ## Reading a pattern back -/

section
variable {c : Config} (h : c.Ok)
include h

/-- No digit has the pattern of a blank position (00_scope.md R8). -/
theorem getD_segLut_ne_segBlank {d : Nat} (hd : d < 10) :
    c.segLut.toList.getD d 0x00#8 ≠ c.segBlank := by
  obtain ⟨-, -, hblank, -⟩ := h
  intro he
  refine hblank (he ▸ ?_)
  rw [List.getD_eq_getElem _ _ (by simpa using hd)]
  exact List.getElem_mem _

/-- The table has each pattern once (00_scope.md R8), so a pattern reads back as its digit. -/
theorem findIdx?_getD_segLut {d : Nat} (hd : d < 10) :
    c.segLut.toList.findIdx? (· == c.segLut.toList.getD d 0x00#8) = some d := by
  obtain ⟨-, hnodup, -⟩ := h
  have hlen : d < c.segLut.toList.length := by simpa using hd
  rw [List.getD_eq_getElem _ _ hlen, List.findIdx?_eq_some_iff_getElem]
  refine ⟨hlen, beq_self_eq_true _, fun j hj => ?_⟩
  rw [beq_iff_eq, hnodup.getElem_inj_iff]
  omega

/-- A blank position reads back as the zero it stands for, every other as its digit
(41_segment_encoder.md R128(c)). -/
theorem readBack_segmentBytes {ds : List Nat} (hds : ∀ d ∈ ds, d < 10) :
    readBack c (ds.mapIdx (segmentByte c (blankCount ds))) = ds.map some := by
  refine List.ext_getElem (by simp [readBack]) fun i h1 h2 => ?_
  have hi : i < ds.length := by simpa using h2
  have hd : ds[i] < 10 := hds _ (List.getElem_mem hi)
  simp only [readBack, List.getElem_map, List.getElem_mapIdx]
  rcases Nat.lt_or_ge i (blankCount ds) with hlt | hge
  · have hz : ds[i] = 0 := by rw [← List.getD_eq_getElem ds 0 hi, getD_of_lt_blankCount hlt]
    rw [segmentByte_of_lt hlt, if_pos rfl, hz]
  · rw [segmentByte_of_le hge, if_neg (getD_segLut_ne_segBlank h hd), findIdx?_getD_segLut h hd]

/-- The last position is never blank (41_segment_encoder.md R128(d)). -/
theorem getLast?_segmentBytes_ne {ds : List Nat} (hne : ds ≠ []) (hds : ∀ d ∈ ds, d < 10) :
    (ds.mapIdx (segmentByte c (blankCount ds))).getLast? ≠ some c.segBlank := by
  have hpos : ds.length - 1 < ds.length := Nat.sub_one_lt_of_lt (List.length_pos_iff.mpr hne)
  have hlast : blankCount ds ≤ ds.length - 1 := Nat.le_sub_one_of_lt (blankCount_lt_length hne)
  rw [List.getLast?_eq_getElem?, List.length_mapIdx, List.getElem?_mapIdx,
    List.getElem?_eq_getElem hpos, Option.map_some, segmentByte_of_le hlast]
  exact fun he =>
    getD_segLut_ne_segBlank h (hds _ (List.getElem_mem hpos)) (Option.some.inj he)

end

/-! ## What the segment commands send -/

/-- A refresh of a block of the spec's shape with its clocks idle, in closed form. -/
theorem refresh_eq_sendFrame {s : State} (hs : Shape s) (hidle : ClocksIdle s) :
    s.refresh = sendFrame s.x s := by
  have hne : s.x ≠ [] := List.ne_nil_of_length_pos (by rw [hs.image]; exact Nat.succ_pos _)
  obtain ⟨hcells, houtputs⟩ := refreshFillsTheChain s hs hidle
  rw [refreshSendsTheImage s hne, hcells, houtputs]
  rfl

/-- A pattern as wide as the display goes into the first entries of the image and out with one
refresh (41_segment_encoder.md R127, R129). -/
theorem showPattern_eq {s : State} (hs : Shape s) (hidle : ClocksIdle s) {pat : List Byte}
    (hpat : pat.length = s.cfg.nseg) :
    s.showPattern pat =
      sendFrame (pat ++ s.x.drop s.cfg.nseg) { s with status := .ok } := by
  have himage : s.x.length = s.cfg.nseg + 2 := hs.image
  have hwritten : s.setRegs 0 pat = { s with x := pat ++ s.x.drop s.cfg.nseg } := by
    rw [setRegs_eq s 0 pat (by omega), List.take_zero, List.nil_append, Nat.zero_add, hpat]
  have hshape : Shape { s with x := pat ++ s.x.drop s.cfg.nseg } :=
    ⟨by simp [hpat, himage], hs.cells, hs.outputs, hs.memory⟩
  rw [State.showPattern, hwritten, refresh_eq_sendFrame hshape hidle]
  rfl

theorem whenInitialized_of_initialized {s : State} (h : s.initialized = true)
    (r : Host.Outcome State Fault Refusal) : whenInitialized s r = r :=
  if_pos h

theorem exec_showScore (score : Score) (s : State) :
    exec (.showScore score) s =
      whenInitialized s (.next (s.showDigits (scoreDigits s.cfg score))) := rfl

theorem exec_clearSegments (s : State) :
    exec .clearSegments s =
      whenInitialized s (.next (s.showPattern (List.replicate s.cfg.nseg s.cfg.segBlank))) := rfl

theorem showDigits_of_ok {s : State} {ds : List Nat} {pat : List Byte}
    (h : patternOf s.cfg ds = .ok pat) : s.showDigits ds = s.showPattern pat := by
  simp only [State.showDigits, h]

/-! ## The statements -/

/-- Settles O17: both scores have the digits of their common remainder. -/
theorem scoresWrapAround : Obligations.ScoresWrapAround := by
  refine ⟨wrapScore_eq_mod, fun s a b hab => ?_⟩
  have hdigits : scoreDigits s.cfg a = scoreDigits s.cfg b := by
    simp only [scoreDigits, wrapScore_eq_mod, hab]
  rw [exec_showScore, exec_showScore, hdigits]

/-- Settles O18, from the decomposition position by position. -/
theorem digitsArePositional : Obligations.DigitsArePositional := by
  intro n w hw
  refine ⟨length_digitsOf n w, fun i hi => ?_, sum_digitsOf hw,
    fun d hd => Nat.le_of_lt_succ (digitsOf_lt hw d hd)⟩
  rw [digitsOf_eq_map hw]
  simp [hi]

/-- Settles O19: the pattern by position, and where the run of zeros stops. -/
theorem leadingZerosAreBlanked : Obligations.LeadingZerosAreBlanked := by
  intro c ds hne hds
  have hlt := blankCount_lt_length hne
  refine ⟨_, patternOf_eq c hds, List.length_mapIdx, hlt, fun i hi => ⟨?_, ?_⟩,
    getD_blankCount_ne_zero, fun i hi hlen => ?_⟩
  · have hlen : i < ds.length := hi.trans hlt
    rw [List.getD_eq_getElem _ _ hlen, ← List.getD_eq_getElem ds 0 hlen, getD_of_lt_blankCount hi]
  · rw [getD_mapIdx_segmentByte c _ (hi.trans hlt), segmentByte_of_lt hi]
  · rw [getD_mapIdx_segmentByte c _ hlen, segmentByte_of_le hi]

/-- Settles O20: the pattern of the score in closed form, written and sent. -/
theorem showScoreSendsThePattern : Obligations.ShowScoreSendsThePattern := by
  intro s score hinit hshape hidle
  rw [exec_showScore, whenInitialized_of_initialized hinit,
    showDigits_of_ok (segEncode_eq s.cfg score), showPattern_eq hshape hidle (by simp)]

/-- Settles O22, at the digits of the score. -/
theorem patternsReadBack : Obligations.PatternsReadBack := by
  intro c score hok
  have hnseg : 1 ≤ c.nseg := hok.1
  have hdigits := scoreDigits_lt c score
  have hne : scoreDigits c score ≠ [] :=
    List.ne_nil_of_length_pos (hnseg.trans_eq (length_scoreDigits c score).symm)
  exact ⟨_, patternOf_eq c hdigits, readBack_segmentBytes hok hdigits,
    getLast?_segmentBytes_ne hok hne hdigits⟩

/-- Settles O23: the blank pattern, written and sent. -/
theorem clearSegmentsSendsBlanks : Obligations.ClearSegmentsSendsBlanks := by
  intro s hinit hshape hidle
  rw [exec_clearSegments, whenInitialized_of_initialized hinit,
    showPattern_eq hshape hidle List.length_replicate]

end Sys2Proof.Machine
end

section
/-! SUPPORT. The enable pulse and the six sending opcodes in closed form (42_lcd_queue.md R155, R157,
R165). -/

namespace Sys2Proof.Machine

/-! ## Frames and strobes in closed form -/

section
variable (f : List Byte) (s : State)

@[simp] theorem sendFrame_cfg : (sendFrame f s).cfg = s.cfg := rfl
@[simp] theorem sendFrame_x : (sendFrame f s).x = f := rfl
@[simp] theorem sendFrame_wire : (sendFrame f s).wire = s.wire ++ refreshEvents f := rfl
@[simp] theorem sendFrame_frames : (sendFrame f s).frames = s.frames ++ [f] := rfl

@[simp] theorem sendStrobe_frames :
    (sendStrobe f s).frames = s.frames ++ strobeFrames s.cfg f := by
  simp [sendStrobe, strobeFrames]

@[simp] theorem sendStrobe_wire :
    (sendStrobe f s).wire = s.wire ++ (strobeFrames s.cfg f).flatMap refreshEvents := by
  simp [sendStrobe, strobeFrames]

theorem clocksIdle_sendFrame : ClocksIdle (sendFrame f s) := ⟨rfl, rfl⟩

/-- The events of an enable pulse are those of its three refreshes (20_memory.md R64). -/
theorem length_strobeEvents (c : Config) :
    ((strobeFrames c f).flatMap refreshEvents).length = 72 * f.length + 6 := by
  simp only [strobeFrames, List.flatMap_cons, List.flatMap_nil, List.length_append,
    length_refreshEvents, length_strobeLow, length_strobeHigh, List.length_nil]
  omega

end

theorem shape_sendFrame {s : State} (h : Shape s) {f : List Byte}
    (hf : f.length = s.cfg.imageLen) : Shape (sendFrame f s) := by
  have hchain : (chainImage f).length = 8 * s.cfg.imageLen := by rw [length_chainImage, hf]
  exact ⟨hf, hchain, hchain, h.memory⟩

theorem shape_setReg {s : State} (h : Shape s) (i : Nat) (v : Byte) : Shape (s.setReg i v) :=
  { h with image := List.length_set.trans h.image }

theorem ctrl_lt_of_shape {s : State} (h : Shape s) : s.cfg.ctrl < s.x.length := by
  rw [h.image]; exact Nat.lt_add_of_pos_right Nat.two_pos

/-! ## PULSE_ENABLE -/

theorem refreshLow_eq_sendFrame {s : State} (hs : Shape s) (hidle : ClocksIdle s) :
    s.refreshLow = sendFrame (strobeLow s.cfg s.x) s :=
  refresh_eq_sendFrame (shape_setReg hs _ _) hidle

theorem refreshHigh_eq_sendFrame {s : State} (hs : Shape s) (hidle : ClocksIdle s) :
    s.refreshHigh = sendFrame (strobeHigh s.cfg s.x) s :=
  refresh_eq_sendFrame (shape_setReg hs _ _) hidle

/-- Settles O15: each refresh sends the image strobed low, high or low, and forcing the enable bit
forgets how it was forced before. -/
theorem pulseEnableIsThreeRefreshes : Obligations.PulseEnableIsThreeRefreshes := by
  intro s hs hidle
  have hctrl := ctrl_lt_of_shape hs
  have hlow := shape_sendFrame hs (f := strobeLow s.cfg s.x)
    ((length_strobeLow _ _).trans hs.image)
  have hhigh := shape_sendFrame hlow (f := strobeHigh s.cfg s.x)
    ((length_strobeHigh _ _).trans hs.image)
  rw [pulseEnable_eq, refreshLow_eq_sendFrame hs hidle,
    refreshHigh_eq_sendFrame hlow (clocksIdle_sendFrame _ _), sendFrame_cfg, sendFrame_x,
    strobeHigh_strobeLow hctrl, refreshLow_eq_sendFrame hhigh (clocksIdle_sendFrame _ _),
    sendFrame_cfg, sendFrame_cfg, sendFrame_x, strobeLow_strobeHigh hctrl]
  rfl

/-! ## The sending opcodes -/

theorem sendControl_eq_sendStrobe {s : State} (hs : Shape s) (hidle : ClocksIdle s) (w : Byte) :
    s.sendControl w = sendStrobe (s.x.set s.cfg.ctrl w) s :=
  pulseEnableIsThreeRefreshes _ (shape_setReg hs _ w) hidle

theorem charData_eq_getD (c : Config) (ch : Byte) :
    charData c ch = c.placeLow7.toList.getD (ch.toNat % 128) 0x00#8 := by
  have hlow : (ch.extractLsb' 0 7).toNat = ch.toNat % 128 := by simp [BitVec.extractLsb'_toNat]
  simp [charData, hlow, Nat.mod_lt]

/-- The control byte and the data byte of a character, strobed, and the cursor one on
(30_encoding.md R81). -/
theorem sendChar_eq_sendStrobe {s : State} (hs : Shape s) (hidle : ClocksIdle s) (ch : Byte) :
    s.sendChar ch =
      { sendStrobe (charImage s.cfg s.x ch) s with messageProgress := s.messageProgress + 1 } := by
  have hpulse := pulseEnableIsThreeRefreshes _
    (shape_setReg (shape_setReg hs s.cfg.ctrl (charControl s.cfg ch)) s.cfg.data
      (charData s.cfg ch)) hidle
  rw [State.sendChar, hpulse, setReg_x, setReg_x, charData_eq_getD]
  rfl

theorem exec_instrOf (op : LcdOp) (s : State) : exec (instrOf op) s = executeOp op s := by
  cases op <;> rfl

theorem executeOp_of_controlWord {s : State} {op : LcdOp} {w : Byte}
    (h : controlWord s.cfg op = some w) : executeOp op s = .next (s.sendControl w) := by
  cases op
  case pause | writeNextChar => cases h
  all_goals obtain rfl := Option.some.inj h; rfl

theorem executeOp_writeNextChar {s : State} (h : s.messageProgress < msgcap) :
    executeOp .writeNextChar s = .next (s.sendChar (s.msg.read s.messageProgress)) := by
  have hread : s.memRead s.messageProgress = some (s.msg.read s.messageProgress) := if_pos h
  simp only [executeOp, execWriteNextChar, hread]

/-- Settles O34: the opcode sends its control word, and sending it is one strobe. -/
theorem instructionOpcodesSendTheirWord : Obligations.InstructionOpcodesSendTheirWord := by
  intro s op w hw hs hidle
  rw [exec_instrOf, executeOp_of_controlWord hw, sendControl_eq_sendStrobe hs hidle]

/-- Settles O35: the read is inside the buffer, and sending the character is one strobe. -/
theorem writeNextCharSendsTheCharacter : Obligations.WriteNextCharSendsTheCharacter := by
  intro s hs hidle hcursor
  have hexec : exec .writeNextChar s = _ := executeOp_writeNextChar hcursor
  rw [hexec, sendChar_eq_sendStrobe hs hidle]

/-- Settles O33: it is the meaning of the opcode. -/
theorem pauseOnlyDisarms : Obligations.PauseOnlyDisarms := fun _ => rfl

end Sys2Proof.Machine
end

section
/-! SUPPORT. `ENQUEUE` on a queue with a given number of entries (42_lcd_queue.md R140 to R144), and
`CLEAR_LCD`. -/

namespace Sys2Proof.Machine

/-! ## ENQUEUE by the number of entries -/

/-- With `c` entries queued the least empty slot is slot `c`. -/
theorem leastEmpty_of_hasCount {q : Vector LcdOp qcap} {c : Nat} (h : c < qcap)
    (hc : HasCount q c) :
    q[(⟨c, h⟩ : Fin qcap)] = .pause ∧ ∀ j : Fin qcap, j < ⟨c, h⟩ → q[j] ≠ .pause := by
  obtain ⟨-, hslots⟩ := hc
  exact ⟨not_not.mp (mt (hslots ⟨c, h⟩).mpr (lt_irrefl c)), fun j hj => (hslots j).mp hj⟩

/-- With room an entry goes behind those queued (42_lcd_queue.md R141). -/
theorem enqueue_of_hasCount {s : State} {c : Nat} (h : c < qcap) (hc : HasCount s.q c) (op : LcdOp)
    (mode : EnqueueMode) :
    s.enqueue op mode = { s with q := s.q.set c op h, armed := armAfter mode c s.armed } := by
  obtain ⟨hempty, hleast⟩ := leastEmpty_of_hasCount h hc
  exact enqueue_at op mode hempty hleast

theorem hasCount_set_of_lt {q : Vector LcdOp qcap} {c : Nat} (h : c < qcap) (hc : HasCount q c)
    {op : LcdOp} (hop : op ≠ .pause) : HasCount (q.set c op h) (c + 1) := by
  obtain ⟨hempty, hleast⟩ := leastEmpty_of_hasCount h hc
  exact hasCount_set hc hempty hleast hop

/-- On a full queue there is no empty slot (42_lcd_queue.md R143). -/
theorem enqueue_of_full {s : State} (h : HasCount s.q qcap) (op : LcdOp) (mode : EnqueueMode) :
    s.enqueue op mode = { s with ovf := true } := by
  rcases enqueue_cases s op mode with ⟨i, hi, -, -⟩ | ⟨-, he⟩
  · exact absurd hi ((h.2 i).mp i.isLt)
  · exact he

theorem armAfter_immediate (c : Nat) (armed : Bool) :
    armAfter .immediate c armed = if c = 0 then true else armed := by
  by_cases h : c = 0 <;> simp [armAfter, h]

/-! ## The statements -/

/-- Settles O29, one mode at a time. -/
theorem enqueueAppendsAndArmsByMode : Obligations.EnqueueAppendsAndArmsByMode := by
  intro s op c h hc
  refine ⟨?_, enqueue_of_hasCount h hc op .hold, enqueue_of_hasCount h hc op .forceActivate⟩
  rw [enqueue_of_hasCount h hc, armAfter_immediate]

theorem exec_clearLcd (s : State) :
    exec .clearLcd s = whenInitialized s (.next ((s.enqueue .clear .immediate).setStatus .ok)) :=
  rfl

theorem exec_showMessage (src : List Byte) (highScore : Bool) (s : State) :
    exec (.showMessage src highScore) s =
      whenInitialized s (.next (showMessageEnd s src highScore)) := rfl

/-- Settles O31: `CLEAR_LCD` is one `Immediate` entry. -/
theorem clearLcdEnqueuesClear : Obligations.ClearLcdEnqueuesClear := by
  intro s c h hinit hc
  rw [exec_clearLcd, whenInitialized_of_initialized hinit, enqueue_of_hasCount h hc,
    armAfter_immediate]
  rfl

/-- Settles O30: an `ENQUEUE` that finds the queue full leaves it full for the next. -/
theorem fullQueueDropsEntries : Obligations.FullQueueDropsEntries := by
  intro s hfull
  refine ⟨enqueue_of_full hfull, fun hinit => ⟨?_, fun src highScore => ?_⟩⟩
  · rw [exec_clearLcd, whenInitialized_of_initialized hinit, enqueue_of_full hfull]
    rfl
  · have htext : HasCount (s.textEncode src highScore).q qcap := hfull
    have hdropped : HasCount { s.textEncode src highScore with ovf := true }.q qcap := hfull
    rw [exec_showMessage, whenInitialized_of_initialized hinit, showMessageEnd,
      enqueue_of_full htext, enqueue_of_full hdropped, enqueue_of_full hdropped]
    rfl

/-- Settles O32: the slot that takes the `PAUSE` holds one already. -/
theorem enqueuePauseKeepsTheQueue : Obligations.EnqueuePauseKeepsTheQueue := by
  intro s mode
  rcases enqueue_cases s .pause mode with ⟨i, hi, -, he⟩ | ⟨-, he⟩
  · have hi' : s.q[i.val] = .pause := hi
    rw [he, ← hi']
    exact Vector.set_getElem_self i.isLt
  · rw [he]

end Sys2Proof.Machine
end

section
/-! SUPPORT. The drain step and `POLL_LCD` (42_lcd_queue.md R150 to R154, R170): what they answer
where the outcome of the front's opcode is known, and that only `PAUSE` disarms. -/

namespace Sys2Proof.Machine

/-! ## What an opcode leaves -/

/-- No opcode writes the queue: the dequeue is the drain step's (log 17). -/
theorem executeOp_q {op : LcdOp} {s t : State} (h : executeOp op s = .next t) : t.q = s.q := by
  rcases executeOp_next h with ⟨-, rfl⟩ | ⟨w, -, rfl⟩ | ⟨-, rfl⟩
  · rfl
  · exact (sendControl_opcodeFrame s w).q
  · obtain ⟨u, hframe, hu⟩ := sendChar_frame s (s.msg.read s.messageProgress)
    rw [hu, advanceCursor_q, hframe.q]

/-- Only `PAUSE` writes `armed` (42_lcd_queue.md R159). -/
theorem executeOp_armed {op : LcdOp} {s t : State} (hop : op ≠ .pause)
    (h : executeOp op s = .next t) : t.armed = s.armed := by
  rcases executeOp_next h with ⟨hpause, -⟩ | ⟨w, -, rfl⟩ | ⟨-, rfl⟩
  · exact absurd hpause hop
  · exact (sendControl_opcodeFrame s w).armed
  · obtain ⟨u, hframe, hu⟩ := sendChar_frame s (s.msg.read s.messageProgress)
    rw [hu, advanceCursor_armed, hframe.armed]

/-- After an opcode only the queue is written: kept for an unfinished message, else shifted. -/
theorem settleQueue_eq (s : State) (op : LcdOp) :
    s.settleQueue op = { s with
      q := if op = .writeNextChar ∧ s.messageProgress < s.messageLength then s.q
        else shiftQueue s.q } := by
  unfold State.settleQueue State.dequeue
  split <;> rfl

/-! ## DRAIN_ONE -/

theorem drainOne_of_disarmed {s : State} (h : s.armed = false) : drainOne s = .next s :=
  if_neg (by rw [h]; exact Bool.false_ne_true)

theorem drainOne_of_armed {s t : State} (h : s.armed = true)
    (he : executeOp s.q[0] s = .next t) : drainOne s = .next (t.settleQueue s.q[0]) := by
  rw [drainOne, if_pos h, he]

/-- A `PAUSE` at the front disarms and leaves the queue shifted. -/
theorem drainOne_of_pause {s : State} (h : s.armed = true) (hq : s.q[0] = .pause) :
    drainOne s = .next s.disarm.dequeue := by
  have hexec : executeOp s.q[0] s = .next s.disarm := by rw [hq]; rfl
  rw [drainOne_of_armed h hexec, settleQueue_of_ne (by rw [hq]; decide)]

theorem shiftQueue_emptyQueue : shiftQueue emptyQueue = emptyQueue := by decide

/-- Settles O37, by the value of `armed`; an empty queue shifted is empty. -/
theorem drainOfDisarmedOrEmptyQueue : Obligations.DrainOfDisarmedOrEmptyQueue := by
  refine ⟨fun s => drainOne_of_disarmed, fun s harmed hq => ?_⟩
  have hfront : s.q[0] = .pause := by rw [hq]; rfl
  have hshift : shiftQueue s.q = s.q := by rw [hq, shiftQueue_emptyQueue]
  rw [drainOne_of_pause harmed hfront, State.dequeue, disarm_q, hshift]
  rfl

/-! ## POLL_LCD -/

/-- After `INIT` a tick is a drain step with the interrupt domain suspended (42_lcd_queue.md
R170). -/
theorem exec_pollLcd_of_drainOne {s t : State} (hinit : s.initialized = true)
    (h : drainOne (s.setIrqHold true) = .next t) :
    exec .pollLcd s = .next ((t.setIrqHold false).setStatus .ok) := by
  show execPollLcd s = _
  rw [execPollLcd, whenInitialized_of_initialized hinit, h]

/-- Settles O38: the drain step of a disarmed queue does nothing. -/
theorem pollOfDisarmedBlock : Obligations.PollOfDisarmedBlock := by
  intro s hinit harmed
  have hdrain : drainOne (s.setIrqHold true) = _ := drainOne_of_disarmed harmed
  rw [exec_pollLcd_of_drainOne hinit hdrain]
  rfl

/-- Settles O39: the front's opcode leaves the queue, and the drain step keeps it for an unfinished
message and shifts it otherwise. -/
theorem pollExecutesTheFront : Obligations.PollExecutesTheFront := by
  intro s t hinit harmed hexec
  rw [exec_instrOf] at hexec
  have hdrain : drainOne (s.setIrqHold true) = _ := drainOne_of_armed harmed hexec
  have hq : t.q = s.q := executeOp_q (s := s.setIrqHold true) hexec
  refine ⟨_, exec_pollLcd_of_drainOne hinit hdrain, ?_, fun i => ?_⟩
  · rw [settleQueue_eq]
    rfl
  · rw [setStatus_q, setIrqHold_q, settleQueue_eq, setIrqHold_q, hq]
    split
    · rfl
    · exact shiftQueue_get s.q i.val i.isLt

/-! ## Only PAUSE disarms -/

/-- A drain step that disarms found `PAUSE` at the front. -/
theorem drainOne_disarms {s t : State} (h : drainOne s = .next t) (harmed : s.armed = true)
    (hdisarmed : t.armed = false) : s.q[0] = .pause := by
  by_contra hq
  rcases drainOne_next h with ⟨hs, -⟩ | ⟨-, u, hu, rfl⟩
  · exact Bool.false_ne_true (hs.symm.trans harmed)
  · rw [settleQueue_eq] at hdisarmed
    have hkept : u.armed = true := (executeOp_armed hq hu).trans harmed
    exact Bool.false_ne_true (hdisarmed.symm.trans hkept)

theorem showPattern_armed (s : State) (pat : List Byte) : (s.showPattern pat).armed = s.armed :=
  ((setRegs_opcodeFrame s 0 pat).trans (refresh_opcodeFrame _)).armed

theorem showMessageEnd_armed {s : State} (h : s.armed = true) (src : List Byte)
    (highScore : Bool) : (showMessageEnd s src highScore).armed = true := by
  have htext : (s.textEncode src highScore).armed = true := h
  have hclear := enqueue_armed_of_armed htext .clear .immediate
  have hhome := enqueue_armed_of_armed hclear .returnHome .hold
  rw [showMessageEnd, setStatus_armed]
  exact enqueue_armed_of_armed hhome .writeNextChar .forceActivate

/-- Every other host command leaves an armed block armed (42_lcd_queue.md R172). -/
theorem HostNext.disarms {i : Instr} {s t : State} (hn : HostNext s i t) (harmed : s.armed = true)
    (hdisarmed : t.armed = false) : i = .pollLcd ∧ s.q[0] = .pause := by
  have hnot : ¬t.armed = true := by rw [hdisarmed]; exact Bool.false_ne_true
  cases hn with
  | init => exact absurd rfl hnot
  | showScore => exact absurd ((showPattern_armed _ _).trans harmed) hnot
  | clearSegments => exact absurd ((showPattern_armed _ _).trans harmed) hnot
  | showMessage => exact absurd (showMessageEnd_armed harmed _ _) hnot
  | clearLcd => exact absurd (enqueue_armed_of_armed harmed _ _) hnot
  | pollLcd u _ drained =>
    exact ⟨rfl, drainOne_disarms (s := s.setIrqHold true) drained harmed hdisarmed⟩

/-- Settles O48, by cases on the host command the step runs. -/
theorem onlyPauseDisarms : Obligations.OnlyPauseDisarms := by
  intro s t hstep harmed hdisarmed
  rcases step_hostNext hstep with ⟨-, rfl⟩ | ⟨i, rest, hdecode, hn⟩
  · exact absurd (hdisarmed.symm.trans harmed) Bool.false_ne_true
  · obtain ⟨rfl, hq⟩ := hn.disarms harmed hdisarmed
    exact ⟨hq, rest, hdecode⟩

end Sys2Proof.Machine
end

section
/-! SUPPORT. A tick on an entry in closed form, and the streams of ticks (42_lcd_queue.md R150, R154,
R156, R165, R166). -/

namespace Sys2Proof.Machine

/-! ## The image of the front entry -/

theorem charImage_set_ctrl (c : Config) (x : List Byte) (v ch : Byte) :
    charImage c (x.set c.ctrl v) ch = charImage c x ch := by
  rw [charImage, charImage, List.set_set]

/-- A character overwrites the one before it, which had the same two bytes. -/
theorem charImage_charImage (c : Config) (x : List Byte) (ch ch' : Byte) :
    charImage c (charImage c x ch) ch' = charImage c x ch' := by
  have hne : c.data ≠ c.ctrl := Nat.succ_ne_self c.nseg
  simp only [charImage]
  rw [List.set_comm _ _ hne, List.set_set, List.set_set]

theorem charImage_strobeLow (c : Config) (f : List Byte) (ch : Byte) :
    charImage c (strobeLow c f) ch = charImage c f ch :=
  charImage_set_ctrl c f _ ch

theorem frontImage_of_controlWord {s : State} {w : Byte}
    (h : controlWord s.cfg s.q[0] = some w) : frontImage s = s.x.set s.cfg.ctrl w := by
  simp only [frontImage, h]

theorem frontImage_of_writeNextChar {s : State} (h : s.q[0] = .writeNextChar) :
    frontImage s = charImage s.cfg s.x (s.msg.read s.messageProgress) := by
  simp only [frontImage, h, controlWord]

/-- An entry without a control word writes a character (00_scope.md R9). -/
theorem eq_writeNextChar_of_controlWord {c : Config} {op : LcdOp} (hop : op ≠ .pause)
    (h : controlWord c op = none) : op = .writeNextChar := by
  cases op
  case pause => exact absurd rfl hop
  case writeNextChar => rfl
  all_goals cases h

theorem ne_writeNextChar_of_controlWord {c : Config} {op : LcdOp} {w : Byte}
    (h : controlWord c op = some w) : op ≠ .writeNextChar := by
  rintro rfl
  cases h

/-- The front's image is the old one but for the control byte and the data byte. -/
theorem frontImage_eq_set (s : State) :
    ∃ v, frontImage s = s.x.set s.cfg.ctrl v ∨
      ∃ d, frontImage s = (s.x.set s.cfg.ctrl v).set s.cfg.data d := by
  unfold frontImage
  split
  next w _ => exact ⟨w, .inl rfl⟩
  next => exact ⟨_, .inr ⟨_, rfl⟩⟩

@[simp] theorem length_frontImage (s : State) : (frontImage s).length = s.x.length := by
  obtain ⟨v, h | ⟨d, h⟩⟩ := frontImage_eq_set s <;> simp [h]

theorem take_nseg_frontImage (s : State) :
    (frontImage s).take s.cfg.nseg = s.x.take s.cfg.nseg := by
  obtain ⟨v, h | ⟨d, h⟩⟩ := frontImage_eq_set s
  · rw [h, List.take_set_of_le le_rfl]
  · rw [h, List.take_set_of_le (Nat.le_succ _), List.take_set_of_le le_rfl]

/-! ## One tick -/

/-- The cursor after the front entry ran (42_lcd_queue.md R165). -/
def cursorAfter (s : State) : Nat :=
  if s.q[0] = .writeNextChar then s.messageProgress + 1 else s.messageProgress

/-- The queue after the front entry ran: it stays for an unfinished message (42_lcd_queue.md R152,
R154). -/
def queueAfter (s : State) : Vector LcdOp qcap :=
  if s.q[0] = .writeNextChar ∧ cursorAfter s < s.messageLength then s.q else shiftQueue s.q

/-- The state after a tick with an entry at the front of an armed queue. -/
def tickEnd (s : State) : State :=
  { sendStrobe (frontImage s) s with
    messageProgress := cursorAfter s
    q := queueAfter s
    irqHold := false
    status := .ok }

section
variable (s : State)

@[simp] theorem tickEnd_cfg : (tickEnd s).cfg = s.cfg := rfl
@[simp] theorem tickEnd_armed : (tickEnd s).armed = s.armed := rfl
@[simp] theorem tickEnd_msg : (tickEnd s).msg = s.msg := rfl
@[simp] theorem tickEnd_messageLength : (tickEnd s).messageLength = s.messageLength := rfl
@[simp] theorem tickEnd_messageProgress : (tickEnd s).messageProgress = cursorAfter s := rfl
@[simp] theorem tickEnd_q : (tickEnd s).q = queueAfter s := rfl
@[simp] theorem tickEnd_x : (tickEnd s).x = strobeLow s.cfg (frontImage s) := rfl
@[simp] theorem tickEnd_frames :
    (tickEnd s).frames = s.frames ++ strobeFrames s.cfg (frontImage s) :=
  sendStrobe_frames (frontImage s) s
@[simp] theorem tickEnd_wire :
    (tickEnd s).wire = s.wire ++ (strobeFrames s.cfg (frontImage s)).flatMap refreshEvents :=
  sendStrobe_wire (frontImage s) s

end

/-- An entry other than `PAUSE` sends its image, and a character moves the cursor. -/
theorem executeOp_front {s : State} (hs : Shape s) (hidle : ClocksIdle s) (hq : s.q[0] ≠ .pause)
    (hcursor : s.messageProgress < msgcap) :
    executeOp s.q[0] s =
      .next { sendStrobe (frontImage s) s with messageProgress := cursorAfter s } := by
  cases hw : controlWord s.cfg s.q[0] with
  | some w =>
    rw [executeOp_of_controlWord hw, sendControl_eq_sendStrobe hs hidle,
      frontImage_of_controlWord hw, cursorAfter, if_neg (ne_writeNextChar_of_controlWord hw)]
    rfl
  | none =>
    have hwrite := eq_writeNextChar_of_controlWord hq hw
    rw [frontImage_of_writeNextChar hwrite, cursorAfter, if_pos hwrite, hwrite,
      executeOp_writeNextChar hcursor, sendChar_eq_sendStrobe hs hidle]

/-- At a command boundary with an entry at the front a tick completes. -/
theorem exec_pollLcd_of_entry {s : State} (h : Inv s) (hq : s.q[0] ≠ .pause) :
    exec .pollLcd s = .next (tickEnd s) := by
  have hcursor : s.messageProgress < msgcap := by
    have := h.cursor
    simp only [msgcap]
    omega
  have hexec := executeOp_front (s := s.setIrqHold true) { h.shape with } h.clocks hq hcursor
  rw [exec_pollLcd_of_drainOne h.initialized
    (drainOne_of_armed (s := s.setIrqHold true) (h.frontArmed hq) hexec), settleQueue_eq]
  rfl

theorem Inv.pollLcd {s t : State} (h : Inv s) (ht : exec .pollLcd s = .next t) : Inv t :=
  (exec_hostNext rfl ht).inv h

theorem Inv.tickEnd {s : State} (h : Inv s) (hq : s.q[0] ≠ .pause) : Inv (tickEnd s) :=
  h.pollLcd (exec_pollLcd_of_entry h hq)

/-- With `PAUSE` at the front a tick leaves the block disarmed and sends nothing. -/
theorem exec_pollLcd_of_pause {s : State} (hinit : s.initialized = true) (hq : s.q[0] = .pause) :
    ∃ t, exec .pollLcd s = .next t ∧ t.armed = false ∧ t.frames = s.frames ∧ t.wire = s.wire ∧
      t.x = s.x := by
  cases harmed : s.armed with
  | false => exact ⟨_, pollOfDisarmedBlock s hinit harmed, harmed, rfl, rfl, rfl⟩
  | true =>
    refine ⟨_, exec_pollLcd_of_drainOne hinit
      (drainOne_of_pause (s := s.setIrqHold true) harmed hq), ?_⟩
    simp

/-- A tick on an armed empty queue disarms and sends nothing (42_lcd_queue.md R151). -/
theorem exec_pollLcd_of_emptyQueue {s : State} (hinit : s.initialized = true)
    (harmed : s.armed = true) (hq : s.q = emptyQueue) :
    exec .pollLcd s = .next { s with armed := false, irqHold := false, status := .ok } :=
  exec_pollLcd_of_drainOne hinit (drainOfDisarmedOrEmptyQueue.2 (s.setIrqHold true) harmed hq)

/-- Settles O40, by what stands at the front. -/
theorem pollSendsThreeFramesOrNone : Obligations.PollSendsThreeFramesOrNone := by
  intro s h
  by_cases hq : s.q[0] = .pause
  · obtain ⟨t, ht, harmed, hframes, hwire, hx⟩ := exec_pollLcd_of_pause h.initialized hq
    exact ⟨t, ht, by rw [hx], absurd hq, fun _ => ⟨harmed, hframes, hwire, hx⟩⟩
  · refine ⟨tickEnd s, exec_pollLcd_of_entry h hq, ?_, fun _ => ⟨tickEnd_frames s, ?_⟩,
      fun hpause => absurd hpause hq⟩
    · rw [tickEnd_x, strobeLow, List.take_set_of_le le_rfl, take_nseg_frontImage]
    · rw [tickEnd_wire, List.length_append, length_strobeEvents, length_frontImage, h.shape.image]

/-- Behind an entry at the front an `ENQUEUE` leaves the front (42_lcd_queue.md R141, R153). -/
theorem enqueue_behind_front {s : State} (hq : s.q[0] ≠ .pause) (op : LcdOp)
    (mode : EnqueueMode) :
    ∃ q armed ovf, s.enqueue op mode = { s with q := q, armed := armed, ovf := ovf } ∧
      q[0] = s.q[0] := by
  rcases enqueue_cases s op mode with ⟨i, hi, -, he⟩ | ⟨-, he⟩
  · refine ⟨_, _, s.ovf, he, Vector.getElem_set_ne i.isLt (by decide) fun hzero => hq ?_⟩
    obtain rfl : i = 0 := Fin.ext hzero
    exact hi
  · exact ⟨s.q, s.armed, true, he, rfl⟩

/-- Settles O55: an entry of `CLEAR_LCD` never takes the front's slot, and the tick depends on the
front, the image, the buffer and the cursor. -/
theorem clearLcdDoesNotPreempt : Obligations.ClearLcdDoesNotPreempt := by
  intro s t u h hq hclear hpoll
  have ht : Inv t := (exec_hostNext rfl hclear).inv h
  rw [exec_pollLcd_of_entry h hq] at hpoll
  obtain rfl := Host.Outcome.next.inj hpoll
  rw [exec_clearLcd, whenInitialized_of_initialized h.initialized] at hclear
  obtain rfl := Host.Outcome.next.inj hclear
  obtain ⟨q, armed, ovf, he, hfront⟩ := enqueue_behind_front hq .clear .immediate
  rw [he] at ht ⊢
  refine ⟨_, exec_pollLcd_of_entry ht (hfront ▸ hq), ?_⟩
  simp [frontImage, cursorAfter, hfront]

end Sys2Proof.Machine
end

section
/-! SUPPORT. Streams of ticks: a message at the front sent character by character, and a
`SHOW_MESSAGE` on an empty queue sent to its end (42_lcd_queue.md R154, R165, R166). -/

namespace Sys2Proof.Machine

/-! ## Composing ticks -/

theorem ticks_succ_of_poll {s t : State} (h : exec .pollLcd s = .next t) (k : Nat) :
    ticks (k + 1) s = ticks k t := by
  rw [ticks, h]

theorem ticks_succ_of_ticks {k : Nat} {s t : State} (h : ticks k s = .next t) :
    ticks (k + 1) s = exec .pollLcd t := by
  induction k generalizing s with
  | zero =>
    obtain rfl := Host.Outcome.next.inj h
    rw [ticks]
    cases exec .pollLcd s <;> rfl
  | succ k ih =>
    rw [ticks] at h
    cases hpoll : exec .pollLcd s with
    | next u =>
      rw [hpoll] at h
      rw [ticks_succ_of_poll hpoll, ih h]
    | fault r => rw [hpoll] at h; cases h
    | refused r => rw [hpoll] at h; cases h

/-! ## A message at the front -/

/-- The ticks a message of visible length `n` takes: the empty one takes one (42_lcd_queue.md
R165). -/
abbrev streamLength (s : State) : Nat := max s.messageLength 1

/-- `t` is `s` after `k` ticks that each sent a character of the message at the front. -/
structure Streamed (s : State) (k : Nat) (t : State) : Prop where
  inv : Inv t
  cfg : t.cfg = s.cfg
  armed : t.armed = s.armed
  msg : t.msg = s.msg
  messageLength : t.messageLength = s.messageLength
  cursor : t.messageProgress = k
  queue : t.q = if k < streamLength s then s.q else shiftQueue s.q
  image : ∀ ch, charImage s.cfg t.x ch = charImage s.cfg s.x ch
  frames : t.frames = s.frames ++
    (List.range k).flatMap fun j => strobeFrames s.cfg (charImage s.cfg s.x (s.msg.read j))

theorem Streamed.zero {s : State} (h : Inv s) (hcursor : s.messageProgress = 0) :
    Streamed s 0 s where
  inv := h
  cfg := rfl
  armed := rfl
  msg := rfl
  messageLength := rfl
  cursor := hcursor
  queue := (if_pos (lt_max_of_lt_right Nat.one_pos)).symm
  image := fun _ => rfl
  frames := (List.append_nil _).symm

/-- One tick more sends the next character, and the last one takes the entry off the queue. -/
theorem Streamed.tick {s t : State} {k : Nat} (h : Streamed s k t) (hq : s.q[0] = .writeNextChar)
    (hk : k < streamLength s) : Streamed s (k + 1) (tickEnd t) := by
  have hkept : t.q = s.q := h.queue.trans (if_pos hk)
  have hfront : t.q[0] = .writeNextChar := by rw [hkept, hq]
  have hcursor : cursorAfter t = k + 1 := by rw [cursorAfter, if_pos hfront, h.cursor]
  have himage : frontImage t = charImage s.cfg s.x (s.msg.read k) := by
    rw [frontImage_of_writeNextChar hfront, h.cfg, h.msg, h.cursor, h.image]
  have hstays : k + 1 < s.messageLength ↔ k + 1 < streamLength s := by
    simp only [streamLength, lt_max_iff]
    omega
  refine ⟨h.inv.tickEnd (by rw [hfront]; decide), h.cfg, h.armed, h.msg, h.messageLength,
    hcursor, ?_, fun ch => ?_, ?_⟩
  · rw [tickEnd_q, queueAfter, hcursor, h.messageLength, hkept]
    simp only [hq, true_and, hstays]
  · rw [tickEnd_x, himage, h.cfg, charImage_strobeLow, charImage_charImage]
  · rw [tickEnd_frames, himage, h.cfg, h.frames, List.range_succ, List.flatMap_append,
      List.flatMap_singleton, List.append_assoc]

theorem ticks_streamed {s : State} (h : Inv s) (hq : s.q[0] = .writeNextChar)
    (hcursor : s.messageProgress = 0) {k : Nat} (hk : k ≤ streamLength s) :
    ∃ t, ticks k s = .next t ∧ Streamed s k t := by
  induction k with
  | zero => exact ⟨s, rfl, .zero h hcursor⟩
  | succ k ih =>
    obtain ⟨t, ht, hstreamed⟩ := ih (Nat.le_of_succ_le hk)
    have hfront : t.q[0] ≠ .pause := by
      rw [hstreamed.queue.trans (if_pos hk), hq]
      decide
    exact ⟨tickEnd t, (ticks_succ_of_ticks ht).trans (exec_pollLcd_of_entry hstreamed.inv hfront),
      hstreamed.tick hq hk⟩

/-- Settles O52: a message with a character takes as many ticks as it has. -/
theorem messageStreamsInOrder : Obligations.MessageStreamsInOrder := by
  intro s k h hq hcursor hlength hk
  have hlen : streamLength s = s.messageLength := max_eq_left hlength
  obtain ⟨t, ht, hstreamed⟩ := ticks_streamed h hq hcursor (hk.trans_eq hlen.symm)
  exact ⟨t, ht, hstreamed.cursor, hstreamed.msg, hlen ▸ hstreamed.queue, hstreamed.frames⟩

/-! ## SHOW_MESSAGE on an empty queue -/

/-- The three entries of `SHOW_MESSAGE` (43_text_encoder.md R190). -/
def messageQueue : Vector LcdOp qcap :=
  ((emptyQueue.set 0 .clear).set 1 .returnHome).set 2 .writeNextChar

theorem hasCount_emptyQueue : HasCount emptyQueue 0 :=
  ⟨Nat.zero_le qcap, fun i => by simp [emptyQueue]⟩

theorem showMessageEnd_of_emptyQueue {s : State} (hq : s.q = emptyQueue) (src : List Byte)
    (highScore : Bool) :
    showMessageEnd s src highScore =
      { s.textEncode src highScore with q := messageQueue, armed := true, status := .ok } := by
  have hnone : HasCount (s.textEncode src highScore).q 0 := hq ▸ hasCount_emptyQueue
  have hone := hasCount_set_of_lt (c := 0) (by decide) hnone (op := .clear) (by decide)
  have htwo := hasCount_set_of_lt (c := 1) (by decide) hone (op := .returnHome) (by decide)
  rw [showMessageEnd, enqueue_of_hasCount (by decide) hnone .clear .immediate,
    enqueue_of_hasCount (c := 1) (by decide) (by exact hone) .returnHome .hold,
    enqueue_of_hasCount (c := 2) (by decide) (by exact htwo) .writeNextChar .forceActivate,
    messageQueue, ← hq]
  rfl

section
variable {s : State} {w : Byte} (h : controlWord s.cfg s.q[0] = some w)
include h

/-- An instruction leaves the cursor. -/
theorem cursorAfter_of_controlWord : cursorAfter s = s.messageProgress :=
  if_neg (ne_writeNextChar_of_controlWord h)

/-- An instruction leaves the queue when it ran. -/
theorem queueAfter_of_controlWord : queueAfter s = shiftQueue s.q :=
  if_neg fun hand => ne_writeNextChar_of_controlWord h hand.1

/-- An empty slot has no control word (00_scope.md R9). -/
theorem ne_pause_of_controlWord : s.q[0] ≠ .pause := by
  intro hq
  rw [hq] at h
  cases h

end

/-- The first two ticks send the words `CLEAR` and `RETURN_HOME` and leave the message at the
front. -/
theorem ticks_messageQueue {s : State} (h : Inv s) (hq : s.q = messageQueue) :
    ∃ t, (∀ k, ticks (k + 1 + 1) s = ticks k t) ∧ Inv t ∧
      t.q = shiftQueue (shiftQueue messageQueue) ∧ t.cfg = s.cfg ∧ t.armed = s.armed ∧
      t.msg = s.msg ∧ t.messageLength = s.messageLength ∧ t.messageProgress = s.messageProgress ∧
      (∀ ch, charImage s.cfg t.x ch = charImage s.cfg s.x ch) ∧
      t.frames = s.frames ++ strobeFrames s.cfg (s.x.set s.cfg.ctrl s.cfg.cwClear) ++
        strobeFrames s.cfg (s.x.set s.cfg.ctrl s.cfg.cwReturnHome) := by
  have hclear : controlWord s.cfg s.q[0] = some s.cfg.cwClear := by rw [hq]; rfl
  have hx : (tickEnd s).x = strobeLow s.cfg (s.x.set s.cfg.ctrl s.cfg.cwClear) := by
    rw [tickEnd_x, frontImage_of_controlWord hclear]
  have hqueue : (tickEnd s).q = shiftQueue messageQueue := by
    rw [tickEnd_q, queueAfter_of_controlWord hclear, hq]
  have hhome : controlWord (tickEnd s).cfg (tickEnd s).q[0] = some s.cfg.cwReturnHome := by
    rw [hqueue]; rfl
  have himage : frontImage (tickEnd s) = s.x.set s.cfg.ctrl s.cfg.cwReturnHome := by
    rw [frontImage_of_controlWord hhome, tickEnd_cfg, hx, strobeLow, List.set_set, List.set_set]
  have hinv := h.tickEnd (ne_pause_of_controlWord hclear)
  refine ⟨tickEnd (tickEnd s), fun k => ?_, hinv.tickEnd (ne_pause_of_controlWord hhome), ?_,
    by simp only [tickEnd_cfg], by simp only [tickEnd_armed], by simp only [tickEnd_msg],
    by simp only [tickEnd_messageLength], ?_, fun ch => ?_, ?_⟩
  · rw [ticks_succ_of_poll (exec_pollLcd_of_entry h (ne_pause_of_controlWord hclear)),
      ticks_succ_of_poll (exec_pollLcd_of_entry hinv (ne_pause_of_controlWord hhome))]
  · rw [tickEnd_q, queueAfter_of_controlWord hhome, hqueue]
  · rw [tickEnd_messageProgress, cursorAfter_of_controlWord hhome, tickEnd_messageProgress,
      cursorAfter_of_controlWord hclear]
  · rw [tickEnd_x, himage, tickEnd_cfg, charImage_strobeLow, charImage_set_ctrl]
  · rw [tickEnd_frames, himage, tickEnd_cfg, tickEnd_frames, frontImage_of_controlWord hclear]

theorem shiftQueue_messageQueue_front :
    (shiftQueue (shiftQueue messageQueue))[0] = .writeNextChar := by decide

theorem shiftQueue_messageQueue_empties :
    shiftQueue (shiftQueue (shiftQueue messageQueue)) = emptyQueue := by decide

/-- Settles O53: two ticks for the words, the stream of the message, and a tick on the empty
queue. -/
theorem showMessageIsSentInTime : Obligations.ShowMessageIsSentInTime := by
  intro s t src highScore h hq _ hexec
  have hinv : Inv t := (exec_hostNext rfl hexec).inv h
  rw [exec_showMessage, whenInitialized_of_initialized h.initialized,
    showMessageEnd_of_emptyQueue hq] at hexec
  obtain rfl := Host.Outcome.next.inj hexec
  obtain ⟨m, hticks, hm, hmq, hcfg, harmed, hmsg, hlength, hcursor, himage, hframes⟩ :=
    ticks_messageQueue hinv rfl
  have hwrite : m.q[0] = .writeNextChar := by rw [hmq]; exact shiftQueue_messageQueue_front
  obtain ⟨u, hu, hstreamed⟩ := ticks_streamed hm hwrite hcursor le_rfl
  have huq : u.q = emptyQueue := by
    rw [hstreamed.queue, if_neg (lt_irrefl _), hmq, shiftQueue_messageQueue_empties]
  have huarmed : u.armed = true := hstreamed.armed.trans harmed
  refine ⟨u, _, ?_, exec_pollLcd_of_emptyQueue hstreamed.inv.initialized huarmed huq, huq, huarmed,
    ?_, ?_, huq, rfl, rfl⟩
  · rw [← hlength, Nat.add_comm, hticks]
    exact hu
  · rw [← hlength]
    exact hstreamed.cursor
  · rw [hstreamed.frames, hframes, ← hlength, hcfg, hmsg]
    simp only [himage]
    rfl

end Sys2Proof.Machine
end

section
/-! SUPPORT. The text encoder (43_text_encoder.md): the codes of a message, what each position of
the buffer reads as after `TEXT_ENCODE` and its scramble, and what `SHOW_MESSAGE` leaves. -/

namespace Sys2Proof.Machine

/-! ## The codes of a message -/

/-- The window bounds the codes (43_text_encoder.md R182). -/
theorem length_codesOf_le (c : Config) (room : Nat) (src : List Byte) :
    (codesOf c room src).length ≤ room := by
  induction room generalizing src with
  | zero => exact le_rfl
  | succ room ih =>
    rw [codesOf]
    split
    · exact Nat.zero_le _
    · exact Nat.succ_le_succ (ih _)

/-- A printable byte is its own code (43_text_encoder.md R183), so a printable text is its own list
of codes, cut at the room. -/
theorem codesOf_printable {c : Config} (h : c.Ok) (room : Nat) {src : List Byte}
    (hsrc : ∀ b ∈ src, 32 ≤ b.toNat ∧ b.toNat ≤ 127) : codesOf c room src = src.take room := by
  induction room generalizing src with
  | zero => rw [codesOf, List.take_zero]
  | succ room ih =>
    cases src with
    | nil => rfl
    | cons b rest =>
      obtain ⟨hb, hrest⟩ := List.forall_mem_cons.mp hsrc
      simp only [codesOf, decodeChar_printable h hb rest, List.drop_one, List.tail_cons,
        List.take_succ_cons, ih hrest]

/-! ## The copy loop -/

/-- The codes stored one after the other, from position `winPos n` on. -/
def storeCodes : List Byte → Nat → Memory → Memory
  | [], _, m => m
  | g :: gs, n, m => storeCodes gs (n + 1) (m.write (winPos n) g)

/-- The copy loop stores the codes of the source and counts them. -/
theorem copyLoop_eq (c : Config) (room : Nat) (src : List Byte) (n : Nat) (m : Memory) :
    copyLoop c room src n m =
      (storeCodes (codesOf c room src) n m, n + (codesOf c room src).length) := by
  induction room generalizing src n m with
  | zero => rfl
  | succ room ih =>
    cases hcode : decodeChar c src with
    | none => simp only [copyLoop, codesOf, hcode, storeCodes, List.length_nil, Nat.add_zero]
    | some gk =>
      simp only [copyLoop, codesOf, hcode, storeCodes, ih, List.length_cons, Nat.add_assoc,
        Nat.add_comm 1]

/-- Storing codes leaves every position that is not the place of one of them. -/
theorem read_storeCodes_of_ne {codes : List Byte} {n p : Nat} {m : Memory} (hm : m.wf)
    (h : n + codes.length ≤ visMax) (hp : ∀ k, n ≤ k → p ≠ winPos k) :
    (storeCodes codes n m).read p = m.read p := by
  induction codes generalizing n m with
  | nil => rfl
  | cons g gs ih =>
    rw [List.length_cons] at h
    rw [storeCodes, ih (write_wf hm (winPos_lt (by omega)) g) (by omega)
      fun k hk => hp k (Nat.le_of_succ_le hk), read_write hm, if_neg (hp n le_rfl)]

/-- The place of code `i` reads as that code; past the last code the window is as before. -/
theorem read_storeCodes_winPos {codes : List Byte} {n : Nat} {m : Memory} (hm : m.wf)
    (h : n + codes.length ≤ visMax) (i : Nat) :
    (storeCodes codes n m).read (winPos (n + i)) = codes.getD i (m.read (winPos (n + i))) := by
  induction codes generalizing n m i with
  | nil => rfl
  | cons g gs ih =>
    rw [List.length_cons] at h
    have hw := write_wf hm (winPos_lt (n := n) (by omega)) g
    cases i with
    | zero =>
      have hlater : ∀ k, n + 1 ≤ k → winPos n ≠ winPos k := fun k hk heq => by
        have := winPos_injective heq
        omega
      rw [Nat.add_zero, storeCodes, read_storeCodes_of_ne hw (by omega) hlater, read_write hm,
        if_pos rfl, List.getD_cons_zero]
    | succ i =>
      have hother : winPos (n + 1 + i) ≠ winPos n := fun heq => by
        have := winPos_injective heq
        omega
      rw [storeCodes, List.getD_cons_succ, show n + (i + 1) = n + 1 + i by omega,
        ih hw (by omega), read_write hm, if_neg hother]

/-! ## The buffer before the scramble -/

/-- A buffer in canonical form lists nothing outside its 50 positions (log 11). -/
theorem read_of_msgcap_le {m : Memory} (hm : m.wf) {p : Nat} (hp : msgcap ≤ p) :
    m.read p = unlistedByte := by
  induction m with
  | nil => rfl
  | cons d m ih =>
    obtain ⟨a, v⟩ := d
    have ha : a < msgcap := (hm.2 (a, v) (by simp)).2
    rw [memory_read_cons, if_neg (by omega)]
    exact ih (wf_tail hm)

theorem encodeBuffer_snd (c : Config) (src : List Byte) (m : Memory) :
    (encodeBuffer c src m).2 = (codesOf c visMax src).length := by
  simp only [encodeBuffer, copyLoop_eq, Nat.zero_add]

/-- The window after the copy: position `winPos i` holds code `i`, or the fill past the last. -/
theorem read_copyLoop_winPos (c : Config) (src : List Byte) {m : Memory} (hm : m.wf) {i : Nat}
    (hi : i < visMax) :
    (copyLoop c visMax src 0 (m.fill fillCode (List.range msgcap))).1.read (winPos i) =
      (codesOf c visMax src).getD i fillCode := by
  have hrange : ∀ p ∈ List.range msgcap, p < msgcap := fun p => List.mem_range.mp
  have hfill : (m.fill fillCode (List.range msgcap)).read (winPos i) = fillCode := by
    rw [read_fill hm _ hrange, if_pos (List.mem_range.mpr (winPos_lt hi))]
  have hlen := length_codesOf_le c visMax src
  have hread := read_storeCodes_winPos (n := 0) (fill_wf hm fillCode hrange)
    ((Nat.zero_add _).trans_le hlen) i
  rw [Nat.zero_add, hfill] at hread
  rw [copyLoop_eq, hread]

/-- Every position before the scramble: the two rows of the window, the gap, and nothing past the
buffer (43_text_encoder.md R181, R182, R184). -/
theorem read_encodeBuffer (c : Config) (src : List Byte) {m : Memory} (hm : m.wf) (p : Nat) :
    (encodeBuffer c src m).1.read p = layoutAt (codesOf c visMax src) p := by
  have hfilled := fill_wf hm fillCode (ps := List.range msgcap) fun p => List.mem_range.mp
  have hcopied := copyLoop_wf c (room := visMax) (n := 0) src hfilled le_rfl
  have hgap := read_fill hcopied blankCode (ps := gapPositions) (fun q => gapPositions_lt) p
  rw [← encodeBuffer_fst] at hgap
  by_cases hrow1 : p < 16
  · have hpos : winPos p = p := if_pos hrow1
    have hread := read_copyLoop_winPos c src hm (i := p) (by simp only [visMax]; omega)
    rw [hpos] at hread
    rw [hgap, if_neg (mt mem_gapPositions.mp (by omega)), hread, layoutAt, if_pos hrow1]
  by_cases hrow2 : 40 ≤ p ∧ p < 50
  · have hpos : winPos (p - 24) = p := by rw [winPos, if_neg (by omega)]; omega
    have hread := read_copyLoop_winPos c src hm (i := p - 24) (by simp only [visMax]; omega)
    rw [hpos] at hread
    rw [hgap, if_neg (mt mem_gapPositions.mp (by omega)), hread, layoutAt, if_neg hrow1,
      if_pos hrow2]
  rw [layoutAt, if_neg hrow1, if_neg hrow2]
  by_cases hp : p < 40
  · rw [hgap, if_pos (mem_gapPositions.mpr ⟨by omega, hp⟩)]
  · exact read_of_msgcap_le (encodeBuffer_wf c src hm) (by simp only [msgcap]; omega)

/-! ## The scramble -/

/-- The scramble forces the bit at the positions of its list and leaves the others; a position
listed twice is forced once. -/
theorem read_scrambleAt {m : Memory} (hm : m.wf) {ps : List Nat} (hp : ∀ p ∈ ps, p < msgcap)
    (a : Nat) :
    (scrambleAt ps m).read a = if a ∈ ps then m.read a ||| scrambleBit else m.read a := by
  induction ps generalizing m with
  | nil => rfl
  | cons p ps ih =>
    obtain ⟨hhead, htail⟩ := List.forall_mem_cons.mp hp
    rw [scrambleAt, ih (write_wf hm hhead _) htail, read_write hm]
    by_cases hap : a = p
    · subst hap
      simp [BitVec.or_assoc]
    · simp [hap]

/-- Every position after `TEXT_ENCODE`, with or without the scramble (43_text_encoder.md R187). -/
theorem read_textEncode {s : State} (hm : s.msg.wf) (src : List Byte) (scramble : Bool) (p : Nat) :
    (s.textEncode src scramble).msg.read p =
      scrambled scramble p (layoutAt (codesOf s.cfg visMax src) p) := by
  have hwf := encodeBuffer_wf s.cfg src hm
  rw [textEncode_msg, ← read_encodeBuffer s.cfg src hm, scrambled]
  cases scramble with
  | false => simp
  | true =>
    rw [if_pos rfl, read_scrambleAt hwf fun q => scramblePositions_lt]
    simp only [mem_scramblePositions, true_and]

theorem scrambled_of_pos {on : Bool} {p : Nat} (h : on ∧ p % 2 = 0 ∧ p < 25) (b : Byte) :
    scrambled on p b = b ||| scrambleBit := if_pos h

theorem scrambled_of_not {on : Bool} {p : Nat} (h : ¬(on ∧ p % 2 = 0 ∧ p < 25)) (b : Byte) :
    scrambled on p b = b := if_neg h

/-- The scramble bit is bit 7 and no other (00_scope.md R7). -/
theorem getLsbD_or_scrambleBit (b : Byte) (j : Nat) :
    (b ||| scrambleBit).getLsbD j = (b.getLsbD j || decide (7 = j)) := by
  rw [BitVec.getLsbD_or, show scrambleBit = BitVec.twoPow 8 7 from rfl, BitVec.getLsbD_twoPow]
  rfl

/-! ## The length -/

/-- The length of a message: its codes, and the gap's 24 positions where the configuration counts
the gap and the message reaches row 2 (70_reset_and_hazards.md R266). -/
theorem visibleLength_eq (c : Config) (n : Nat) :
    visibleLength c n = if c.lenCountsGap = true ∧ 16 < n then n + 24 else n := by
  cases hgap : c.lenCountsGap with
  | false => simp [visibleLength, hgap]
  | true =>
    simp only [visibleLength, hgap, if_true, true_and, winPos]
    split_ifs <;> omega

theorem textEncode_messageLength (s : State) (src : List Byte) (scramble : Bool) :
    (s.textEncode src scramble).messageLength =
      if s.cfg.lenCountsGap = true ∧ 16 < (codesOf s.cfg visMax src).length
      then (codesOf s.cfg visMax src).length + 24
      else (codesOf s.cfg visMax src).length := by
  rw [State.textEncode, encodeBuffer_snd, visibleLength_eq]

/-! ## SHOW_MESSAGE -/

/-- The three entries touch nothing of what `TEXT_ENCODE` left but the queue and its flags. -/
theorem showMessageEnd_frame (s : State) (src : List Byte) (highScore : Bool) :
    ∃ q armed ovf, showMessageEnd s src highScore =
      { s.textEncode src highScore with q := q, armed := armed, ovf := ovf, status := .ok } := by
  obtain ⟨q₁, armed₁, ovf₁, h₁⟩ := enqueue_frame (s.textEncode src highScore) .clear .immediate
  obtain ⟨q₂, armed₂, ovf₂, h₂⟩ := enqueue_frame
    { s.textEncode src highScore with q := q₁, armed := armed₁, ovf := ovf₁ } .returnHome .hold
  obtain ⟨q₃, armed₃, ovf₃, h₃⟩ := enqueue_frame
    { s.textEncode src highScore with q := q₂, armed := armed₂, ovf := ovf₂ }
    .writeNextChar .forceActivate
  exact ⟨q₃, armed₃, ovf₃, by rw [showMessageEnd, h₁, h₂, h₃]; rfl⟩

/-- `SHOW_MESSAGE` with room for its three entries: they go behind those queued and the last one
arms (43_text_encoder.md R190). -/
theorem showMessageEnd_of_hasCount {s : State} {c : Nat} (h : c + 3 ≤ qcap) (hc : HasCount s.q c)
    (src : List Byte) (highScore : Bool) :
    ∃ q, showMessageEnd s src highScore =
        { s.textEncode src highScore with q := q, armed := true, status := .ok } ∧
      q = ((s.q.set c .clear).set (c + 1) .returnHome).set (c + 2) .writeNextChar ∧
      HasCount q (c + 3) := by
  have htext : HasCount (s.textEncode src highScore).q c := hc
  have hone := hasCount_set_of_lt (by omega) htext (op := .clear) (by decide)
  have htwo := hasCount_set_of_lt (by omega) hone (op := .returnHome) (by decide)
  have hthree := hasCount_set_of_lt (by omega) htwo (op := .writeNextChar) (by decide)
  refine ⟨_, ?_, rfl, hthree⟩
  rw [showMessageEnd, enqueue_of_hasCount (by omega) htext .clear .immediate,
    enqueue_of_hasCount (c := c + 1) (by omega) (by exact hone) .returnHome .hold,
    enqueue_of_hasCount (c := c + 2) (by omega) (by exact htwo) .writeNextChar .forceActivate]
  rfl

/-! ## The statements -/

/-- Settles O25: every printable byte is its own code. -/
theorem printableTextPassesThrough : Obligations.PrintableTextPassesThrough :=
  fun _ _ h hsrc => codesOf_printable h visMax hsrc

/-- Settles O26: the end state is what `TEXT_ENCODE` left but for the queue and its flags. -/
theorem showMessageReplacesTheBuffer : Obligations.ShowMessageReplacesTheBuffer := by
  intro s src highScore hinit hm
  obtain ⟨q, armed, ovf, hend⟩ := showMessageEnd_frame s src highScore
  refine ⟨showMessageEnd s src highScore,
    by rw [exec_showMessage, whenInitialized_of_initialized hinit], ?_⟩
  rw [hend]
  exact ⟨read_textEncode hm src highScore, textEncode_wf s src highScore hm, rfl,
    length_codesOf_le s.cfg visMax src, textEncode_messageLength s src highScore⟩

/-- Settles O27: both buffers are the same layout, scrambled and not. -/
theorem scrambleSetsTopBitsOnly : Obligations.ScrambleSetsTopBitsOnly := by
  intro s src p hm
  rw [read_textEncode hm, read_textEncode hm]
  refine ⟨fun heven hlow => ?_, fun hout => ?_⟩
  · rw [scrambled_of_pos ⟨rfl, heven, hlow⟩, scrambled_of_not (by simp)]
    refine ⟨by simp only [getLsbD_or_scrambleBit, decide_true, Bool.or_true], fun j hj => ?_⟩
    rw [getLsbD_or_scrambleBit, decide_eq_false (Nat.ne_of_gt hj), Bool.or_false]
  · rw [scrambled_of_not fun h => hout h.2, scrambled_of_not (by simp)]

/-- Settles O28: the three entries in their slots, behind those queued. -/
theorem showMessageEnqueuesThree : Obligations.ShowMessageEnqueuesThree := by
  intro s src highScore c hinit hc h
  obtain ⟨q, hend, hq, hcount⟩ := showMessageEnd_of_hasCount h hc src highScore
  refine ⟨_, by rw [exec_showMessage, whenInitialized_of_initialized hinit, hend], fun i => ?_,
    hcount, rfl⟩
  simp only [hq, Fin.getElem_fin, Vector.getElem_set, eq_comm (b := i.val)]
  by_cases hclear : i.val = c
  · simp [hclear]
  by_cases hhome : i.val = c + 1
  · simp [hhome]
  · rw [if_neg hclear, if_neg hclear, if_neg hhome, if_neg hhome]

end Sys2Proof.Machine
end

section
/-! SUPPORT. The facade (44_facade.md): which command a step runs and which it refuses, that the two
display paths write apart from each other, and the power-on words sent by the ticks after
`INIT`. -/

namespace Sys2Proof.Machine

/-! ## Which command runs -/

theorem whenInitialized_of_uninitialized {s : State} (h : s.initialized = false)
    (r : Host.Outcome State Fault Refusal) :
    whenInitialized s r = .refused .notInitialized :=
  if_neg (by rw [h]; exact Bool.false_ne_true)

/-- Settles O4: bytes that decode are not the empty channel, and the step fetches them. -/
theorem stepRunsDecodedCommand : Obligations.StepRunsDecodedCommand := by
  intro s i rest h
  cases hhost : s.host with
  | nil => rw [hhost] at h; cases h
  | cons b bs =>
    rw [hhost] at h
    simp only [step, fetch, hhost, h]

/-- Settles O7: it is the end state of `INIT`, which the four entries on an empty queue and the five
levels of `BUS_INIT` give. -/
theorem initFromAnyState : Obligations.InitFromAnyState := fun s p => exec_init p s

/-- Settles O8: each of the five commands runs behind the test of `initialized`. -/
theorem commandsBeforeInitAreRefused : Obligations.CommandsBeforeInitAreRefused := by
  intro s score src highScore h
  have hrefused := whenInitialized_of_uninitialized h
  exact ⟨hrefused _, hrefused _, hrefused _, hrefused _, hrefused _⟩

/-! ## The segment bytes under the LCD path -/

theorem take_nseg_set_ctrl (c : Config) (f : List Byte) (v : Byte) :
    (f.set c.ctrl v).take c.nseg = f.take c.nseg :=
  List.take_set_of_le le_rfl

theorem take_nseg_set_data (c : Config) (f : List Byte) (v : Byte) :
    (f.set c.data v).take c.nseg = f.take c.nseg :=
  List.take_set_of_le (Nat.le_succ _)

theorem pulseEnable_x (s : State) :
    s.pulseEnable.x = strobeLow s.cfg (strobeHigh s.cfg (strobeLow s.cfg s.x)) := by
  simp [pulseEnable_eq]

/-- An enable pulse writes the control byte only (42_lcd_queue.md R155). -/
theorem take_nseg_pulseEnable (s : State) :
    s.pulseEnable.x.take s.cfg.nseg = s.x.take s.cfg.nseg := by
  rw [pulseEnable_x, strobeLow, take_nseg_set_ctrl, strobeHigh, take_nseg_set_ctrl, strobeLow,
    take_nseg_set_ctrl]

theorem take_nseg_sendControl (s : State) (w : Byte) :
    (s.sendControl w).x.take s.cfg.nseg = s.x.take s.cfg.nseg :=
  (take_nseg_pulseEnable (s.setReg s.cfg.ctrl w)).trans (take_nseg_set_ctrl s.cfg s.x w)

theorem take_nseg_sendChar (s : State) (ch : Byte) :
    (s.sendChar ch).x.take s.cfg.nseg = s.x.take s.cfg.nseg := by
  have hpulse := take_nseg_pulseEnable
    ((s.setReg s.cfg.ctrl (charControl s.cfg ch)).setReg s.cfg.data (charData s.cfg ch))
  simp only [setReg_cfg, setReg_x, take_nseg_set_data, take_nseg_set_ctrl] at hpulse
  rw [State.sendChar, advanceCursor_x, hpulse]

/-- No opcode writes a segment byte (44_facade.md R206). -/
theorem take_nseg_executeOp {op : LcdOp} {s t : State} (h : executeOp op s = .next t) :
    t.x.take s.cfg.nseg = s.x.take s.cfg.nseg := by
  rcases executeOp_next h with ⟨-, rfl⟩ | ⟨w, -, rfl⟩ | ⟨-, rfl⟩
  · rfl
  · exact take_nseg_sendControl s w
  · exact take_nseg_sendChar s _

theorem take_nseg_drainOne {s t : State} (h : drainOne s = .next t) :
    t.x.take s.cfg.nseg = s.x.take s.cfg.nseg := by
  rcases drainOne_next h with ⟨-, rfl⟩ | ⟨-, u, hu, rfl⟩
  · rfl
  · rw [settleQueue_eq]
    exact take_nseg_executeOp (t := u) hu

/-! ## The LCD side under the segment path -/

/-- A run of segment writes leaves the image after it, whatever the image's length. -/
theorem drop_setRegs_of_le (s : State) {i j : Nat} (bs : List Byte) (h : i + bs.length ≤ j) :
    (s.setRegs i bs).x.drop j = s.x.drop j := by
  induction bs generalizing s i with
  | nil => rfl
  | cons b bs ih =>
    rw [List.length_cons] at h
    rw [State.setRegs, ih _ (by omega), setReg_x, List.drop_set_of_lt (by omega)]

/-- `s` and `t` agree on the LCD bytes, the queue, `armed` and the message. -/
structure LcdSideKept (s t : State) : Prop where
  image : t.x.drop s.cfg.nseg = s.x.drop s.cfg.nseg
  queue : t.q = s.q
  armed : t.armed = s.armed
  msg : t.msg = s.msg
  messageProgress : t.messageProgress = s.messageProgress
  messageLength : t.messageLength = s.messageLength

/-- A pattern as wide as the display leaves the LCD side (41_segment_encoder.md R127, R129). -/
theorem lcdSideKept_showPattern (s : State) {pat : List Byte} (h : pat.length = s.cfg.nseg) :
    LcdSideKept s (s.showPattern pat) := by
  have hframe := (setRegs_opcodeFrame s 0 pat).trans (refresh_opcodeFrame _)
  refine ⟨?_, hframe.q, hframe.armed, hframe.msg, hframe.messageProgress, hframe.messageLength⟩
  rw [State.showPattern, setStatus_x, refresh_x, drop_setRegs_of_le s pat (by omega)]

/-- Settles O50: a tick writes at or past `CTRL`, a pattern before it. -/
theorem displayPathsAreDisjoint : Obligations.DisplayPathsAreDisjoint := by
  refine fun s t => ⟨fun h => ?_, fun h => ?_⟩
  · cases exec_hostNext rfl h with
    | pollLcd u _ drained => exact take_nseg_drainOne (s := s.setIrqHold true) (t := u) drained
  · have hkept : LcdSideKept s t := by
      rcases h with h | ⟨score, h⟩
      · cases exec_hostNext rfl h with
        | clearSegments => exact lcdSideKept_showPattern s List.length_replicate
      · cases exec_hostNext rfl h with
        | showScore _ _ _ _ width => exact lcdSideKept_showPattern s width
    exact ⟨hkept.image, hkept.queue, hkept.armed, hkept.msg, hkept.messageProgress,
      hkept.messageLength⟩

/-! ## A run of control words -/

/-- `t` is `s` after ticks that sent the control words `ws`, whatever the chain holds. -/
structure WordsSent (s : State) (ws : List Byte) (t : State) : Prop where
  cfg : t.cfg = s.cfg
  initialized : t.initialized = s.initialized
  armed : t.armed = s.armed
  queue : t.q = shiftQueue^[ws.length] s.q
  image : ∀ w, t.x.set s.cfg.ctrl w = s.x.set s.cfg.ctrl w
  frames : t.frames =
    s.frames ++ ws.flatMap fun w => strobeFrames s.cfg (s.x.set s.cfg.ctrl w)

theorem WordsSent.nil (s : State) : WordsSent s [] s :=
  ⟨rfl, rfl, rfl, rfl, fun _ => rfl, (List.append_nil _).symm⟩

theorem WordsSent.cons {s t u : State} {w : Byte} {ws : List Byte} (h : WordsSent s [w] t)
    (k : WordsSent t ws u) : WordsSent s (w :: ws) u where
  cfg := k.cfg.trans h.cfg
  initialized := k.initialized.trans h.initialized
  armed := k.armed.trans h.armed
  queue := by rw [k.queue, h.queue]; rfl
  image := fun v => by rw [← h.image v, ← h.cfg, k.image]
  frames := by
    rw [k.frames, h.frames, h.cfg]
    simp only [h.image, List.flatMap_cons, List.flatMap_nil, List.append_nil, List.append_assoc]

/-- A word sent leaves it in the control byte with the enable bit clear, after three frames. -/
theorem sendControl_x_frames {s : State} (h : s.cfg.ctrl < s.x.length) (w : Byte) :
    (s.sendControl w).x = strobeLow s.cfg (s.x.set s.cfg.ctrl w) ∧
      (s.sendControl w).frames = s.frames ++ strobeFrames s.cfg (s.x.set s.cfg.ctrl w) := by
  have hctrl : (s.setReg s.cfg.ctrl w).cfg.ctrl < (s.setReg s.cfg.ctrl w).x.length :=
    h.trans_eq List.length_set.symm
  refine ⟨?_, pulseEnable_frames hctrl⟩
  rw [State.sendControl, pulseEnable_x, strobeHigh_strobeLow hctrl, strobeLow_strobeHigh hctrl]
  rfl

/-- A tick on an instruction at the front sends its word and takes it off the queue
(42_lcd_queue.md R150, R157). -/
theorem exec_pollLcd_of_controlWord {s : State} {w : Byte} (hinit : s.initialized = true)
    (harmed : s.armed = true) (hctrl : s.cfg.ctrl < s.x.length)
    (hw : controlWord s.cfg s.q[0] = some w) :
    ∃ t, exec .pollLcd s = .next t ∧ WordsSent s [w] t := by
  have hexec : executeOp s.q[0] (s.setIrqHold true) = _ := executeOp_of_controlWord hw
  have hpoll := exec_pollLcd_of_drainOne hinit (drainOne_of_armed harmed hexec)
  rw [setIrqHold_q, settleQueue_of_ne (ne_writeNextChar_of_controlWord hw)] at hpoll
  have hframe := sendControl_opcodeFrame (s.setIrqHold true) w
  obtain ⟨hx, hframes⟩ := sendControl_x_frames (s := s.setIrqHold true) hctrl w
  exact ⟨_, hpoll, {
    cfg := by simp [hframe.cfg]
    initialized := by simp [hframe.initialized]
    armed := by simp [hframe.armed]
    queue := by simp [hframe.q]
    image := by simp [hx, strobeLow]
    frames := by simp [hframes] }⟩

theorem toList_eq_front_cons (q : Vector LcdOp qcap) : q.toList = q[0] :: q.toList.tail := by
  rw [← Vector.getElem_toList (by simp), List.getElem_zero, List.cons_head_tail]

/-- As many ticks as the queue starts with instructions send their words in order
(42_lcd_queue.md R166). -/
theorem ticks_controlWords {s : State} {ws : List Byte} (hinit : s.initialized = true)
    (harmed : s.armed = true) (hctrl : s.cfg.ctrl < s.x.length)
    (hws : ws.map some <+: s.q.toList.map (controlWord s.cfg)) :
    ∃ t, ticks ws.length s = .next t ∧ WordsSent s ws t := by
  induction ws generalizing s with
  | nil => exact ⟨s, rfl, .nil s⟩
  | cons w ws ih =>
    rw [toList_eq_front_cons, List.map_cons, List.map_cons, List.cons_prefix_cons] at hws
    obtain ⟨hw, htail⟩ := hws
    obtain ⟨u, hpoll, hsent⟩ := exec_pollLcd_of_controlWord hinit harmed hctrl hw.symm
    have hlength : u.x.length = s.x.length := by
      simpa using congrArg List.length (hsent.image 0x00#8)
    have hrest : ws.map some <+: u.q.toList.map (controlWord u.cfg) := by
      rw [hsent.queue, hsent.cfg]
      show _ <+: (shiftQueue s.q).toList.map _
      rw [toList_shiftQueue, List.map_append]
      exact htail.trans (List.prefix_append _ _)
    obtain ⟨t, hticks, ht⟩ := ih (hsent.initialized.trans hinit) (hsent.armed.trans harmed)
      (by rwa [hsent.cfg, hlength]) hrest
    exact ⟨t, (ticks_succ_of_poll hpoll _).trans hticks, hsent.cons ht⟩

/-! ## The power-on sequence -/

/-- The words of the power-on sequence (44_facade.md R202). -/
abbrev powerOnWords (c : Config) : List Byte :=
  [c.cwClear, c.cwSetEntryMode, c.cwSetDisplayControl, c.cwSetFunction]

theorem powerOnWords_front_powerOnQueue (c : Config) :
    (powerOnWords c).map some <+: powerOnQueue.toList.map (controlWord c) :=
  ⟨List.replicate 16 none, rfl⟩

theorem shiftQueue_powerOnQueue_empties : shiftQueue^[4] powerOnQueue = emptyQueue := by decide

/-- Settles O51: four ticks send the four words of the queue that `INIT` leaves, and the fifth finds
it empty. -/
theorem powerOnSequenceIsSent : Obligations.PowerOnSequenceIsSent := by
  intro s t p h
  rw [exec_init] at h
  obtain rfl := Host.Outcome.next.inj h
  have hctrl : (initEnd p s).cfg.ctrl < (initEnd p s).x.length :=
    (Nat.lt_add_of_pos_right Nat.two_pos).trans_eq List.length_replicate.symm
  obtain ⟨u, hticks, hsent⟩ :=
    ticks_controlWords (s := initEnd p s) rfl rfl hctrl (powerOnWords_front_powerOnQueue s.cfg)
  have hq : u.q = emptyQueue := hsent.queue.trans shiftQueue_powerOnQueue_empties
  exact ⟨u, _, hticks, exec_pollLcd_of_emptyQueue hsent.initialized hsent.armed hq, hsent.frames,
    hq, hsent.armed, hq, rfl, rfl⟩

end Sys2Proof.Machine
end

section
/-! SUPPORT. The exceptions (60_exceptions.md): an invalid digit, the totality of the commands at a
boundary, the overflow flag, and the step with no command issued. -/

namespace Sys2Proof.Machine

/-! ## No command issued -/

/-- Settles O5: an empty channel has nothing to fetch. -/
theorem idleStepHoldsState : Obligations.IdleStepHoldsState := by
  intro s hhost
  simp only [step, fetch, hhost]

/-! ## An invalid digit -/

theorem lutOrError_of_le {d : Nat} (h : 10 ≤ d) (c : Config) :
    lutOrError c d = .error (.invalidDigit d) :=
  dif_neg (Nat.not_lt.mpr h)

/-- Rendering stops at the first digit with no glyph, where no blank position hides it
(41_segment_encoder.md R126). -/
theorem renderDigits_invalid (c : Config) {before : List Nat} {d z : Nat}
    (hbefore : ∀ e ∈ before, e < 10) (hd : 10 ≤ d) (after : List Nat) (hz : z ≤ before.length) :
    renderDigits c z (before ++ d :: after) = .error (.invalidDigit d) := by
  induction before generalizing z with
  | nil =>
    obtain rfl : z = 0 := Nat.le_zero.mp hz
    rw [List.nil_append, renderDigits, lutOrError_of_le hd]
  | cons e before ih =>
    obtain ⟨he, hrest⟩ := List.forall_mem_cons.mp hbefore
    cases z with
    | zero =>
      have hglyph : lutOrError c e = .ok c.segLut[e] := dif_pos he
      rw [List.cons_append, renderDigits, hglyph]
      simp only [ih hrest (Nat.zero_le _)]
    | succ z =>
      rw [List.cons_append, renderDigits, ih hrest (Nat.le_of_succ_le_succ hz)]

/-- A nonzero digit ends the run of leading zeros (41_segment_encoder.md R123). -/
theorem blankCount_le_of_ne_zero {d : Nat} (hd : d ≠ 0) (before after : List Nat) :
    blankCount (before ++ d :: after) ≤ before.length := by
  by_contra hlt
  have hzero := getD_of_lt_blankCount (Nat.not_le.mp hlt)
  simp [List.getD_eq_getElem?_getD, hd] at hzero

theorem patternOf_invalid (c : Config) {before : List Nat} {d : Nat}
    (hbefore : ∀ e ∈ before, e < 10) (hd : 10 ≤ d) (after : List Nat) :
    patternOf c (before ++ d :: after) = .error (.invalidDigit d) :=
  renderDigits_invalid c hbefore hd after (blankCount_le_of_ne_zero (by omega) before after)

/-- Settles O21: the first invalid digit ends the rendering before a segment byte is written, and
the digits of a score are below 10. -/
theorem invalidDigitWritesNothing : Obligations.InvalidDigitWritesNothing := by
  refine ⟨fun s before after d hbefore hd => ?_, fun c score e herror => ?_⟩
  · have hpattern := patternOf_invalid s.cfg hbefore hd after
    refine ⟨hpattern, ?_⟩
    rw [State.showDigits, hpattern]
    rfl
  · rw [segEncode_eq] at herror
    cases herror

/-! ## The commands are total at a boundary -/

theorem Inv.setHost {s : State} (h : Inv s) (bs : List Byte) : Inv { s with host := bs } := by
  obtain ⟨hc, hirq, hstatus⟩ := inv_iff.mp h
  exact inv_iff.mpr ⟨hc.setHost bs, hirq, hstatus⟩

/-- Every host command completes at a command boundary (60_exceptions.md R222): the block is
started, and the cursor of a tick is inside the buffer. -/
theorem Inv.exec_completes {s : State} (h : Inv s) {i : Instr} (hi : slotOf i = none) :
    ∃ t, exec i s = .next t := by
  have hready := whenInitialized_of_initialized h.initialized
  cases i with
  | init p => exact ⟨_, exec_init p s⟩
  | showScore score => exact ⟨_, hready _⟩
  | showMessage src highScore => exact ⟨_, hready _⟩
  | clearLcd => exact ⟨_, hready _⟩
  | clearSegments => exact ⟨_, hready _⟩
  | pollLcd =>
    obtain ⟨t, ht, -⟩ := pollSendsThreeFramesOrNone s h
    exact ⟨t, ht⟩
  | _ => cases hi

theorem Inv.step_completes {s : State} (h : Inv s) {i : Instr} {rest : List Byte}
    (hdecode : decode .fHost s.host = .ok (i, rest)) : ∃ t, step s = .next t := by
  rw [stepRunsDecodedCommand s i rest hdecode]
  exact (h.setHost rest).exec_completes (slotOf_of_decode_fHost hdecode)

/-- Settles O44: nothing to do and a command both complete, and bytes that are no command are
refused, which is no fault. -/
theorem noCommandFailsAtABoundary : Obligations.NoCommandFailsAtABoundary := by
  refine fun s h => ⟨fun r hfault => ?_, fun i rest => h.step_completes⟩
  by_cases hhost : s.host = []
  · rw [idleStepHoldsState s hhost] at hfault
    cases hfault
  · cases hdecode : decode .fHost s.host with
    | error e =>
      rw [step_of_decode_error hhost hdecode] at hfault
      cases hfault
    | ok command =>
      obtain ⟨t, ht⟩ := h.step_completes hdecode
      rw [ht] at hfault
      cases hfault

/-! ## The overflow flag -/

/-- No `ENQUEUE` clears the flag (60_exceptions.md R233). -/
theorem enqueue_ovf_of_ovf {s : State} (h : s.ovf = true) (op : LcdOp) (mode : EnqueueMode) :
    (s.enqueue op mode).ovf = true := by
  rcases enqueue_cases s op mode with ⟨i, -, -, he⟩ | ⟨-, he⟩
  · rw [he]; exact h
  · rw [he]

/-- An overflow was marked only on a queue that has no empty slot now (42_lcd_queue.md R143). -/
def OverflowOnFull (s : State) : Prop := s.ovf = true → ∀ i : Fin qcap, s.q[i] ≠ .pause

theorem overflowOnFull_of_not_ovf {s : State} (h : s.ovf = false) : OverflowOnFull s :=
  fun hovf => absurd (h.symm.trans hovf) Bool.false_ne_true

/-- An `ENQUEUE` that finds a slot finds no overflow marked, and one that finds none leaves the
queue full. -/
theorem OverflowOnFull.enqueue {s : State} (h : OverflowOnFull s) (op : LcdOp)
    (mode : EnqueueMode) : OverflowOnFull (s.enqueue op mode) := by
  rcases enqueue_cases s op mode with ⟨i, hi, -, he⟩ | ⟨hfull, he⟩
  · rw [he]; exact fun hovf => absurd hi (h hovf i)
  · rw [he]; exact fun _ => hfull

theorem showMessageEnd_ovf_of_ovf {s : State} (h : s.ovf = true) (src : List Byte)
    (highScore : Bool) : (showMessageEnd s src highScore).ovf = true := by
  have htext : (s.textEncode src highScore).ovf = true := h
  have hclear := enqueue_ovf_of_ovf htext .clear .immediate
  have hhome := enqueue_ovf_of_ovf hclear .returnHome .hold
  exact enqueue_ovf_of_ovf hhome .writeNextChar .forceActivate

theorem OverflowOnFull.showMessageEnd {s : State} (h : OverflowOnFull s) (src : List Byte)
    (highScore : Bool) : OverflowOnFull (showMessageEnd s src highScore) := by
  have htext : OverflowOnFull (s.textEncode src highScore) := h
  exact ((htext.enqueue .clear .immediate).enqueue .returnHome .hold).enqueue
    .writeNextChar .forceActivate

theorem showPattern_ovf (s : State) (pat : List Byte) : (s.showPattern pat).ovf = s.ovf :=
  ((setRegs_opcodeFrame s 0 pat).trans (refresh_opcodeFrame _)).ovf

/-- No opcode touches the flag: only an `ENQUEUE` overflows. -/
theorem executeOp_ovf {op : LcdOp} {s t : State} (h : executeOp op s = .next t) :
    t.ovf = s.ovf := by
  rcases executeOp_next h with ⟨-, rfl⟩ | ⟨w, -, rfl⟩ | ⟨-, rfl⟩
  · exact disarm_ovf s
  · exact (sendControl_opcodeFrame s w).ovf
  · obtain ⟨u, hframe, hu⟩ := sendChar_frame s (s.msg.read s.messageProgress)
    rw [hu, advanceCursor_ovf, hframe.ovf]

theorem drainOne_ovf {s t : State} (h : drainOne s = .next t) : t.ovf = s.ovf := by
  rcases drainOne_next h with ⟨-, rfl⟩ | ⟨-, u, hu, rfl⟩
  · rfl
  · rw [settleQueue_eq]
    exact executeOp_ovf (t := u) hu

/-- What a host command does to the flag: `INIT` clears it, `CLEAR_LCD` and `SHOW_MESSAGE` keep a
mark and make one on a full queue only, and the others leave it (60_exceptions.md R221, R233). -/
theorem HostNext.ovf_cases {i : Instr} {s t : State} (hn : HostNext s i t) :
    ((∃ p, i = .init p) ∧ t.ovf = false) ∨
    ((i = .clearLcd ∨ ∃ src highScore, i = .showMessage src highScore) ∧
      (s.ovf = true → t.ovf = true) ∧ (OverflowOnFull s → OverflowOnFull t)) ∨
    t.ovf = s.ovf := by
  cases hn with
  | init p => exact .inl ⟨⟨p, rfl⟩, rfl⟩
  | showScore _ pat => exact .inr (.inr (showPattern_ovf s pat))
  | clearSegments => exact .inr (.inr (showPattern_ovf s _))
  | showMessage src highScore =>
    exact .inr (.inl ⟨.inr ⟨src, highScore, rfl⟩,
      fun h => showMessageEnd_ovf_of_ovf h src highScore, fun h => h.showMessageEnd src highScore⟩)
  | clearLcd =>
    exact .inr (.inl ⟨.inl rfl, fun h => enqueue_ovf_of_ovf h .clear .immediate,
      fun h => h.enqueue .clear .immediate⟩)
  | pollLcd u _ drained =>
    exact .inr (.inr (drainOne_ovf (s := s.setIrqHold true) (t := u) drained))

/-- Settles O49, by what the host command of the step does to the flag. -/
theorem overflowIsSticky : Obligations.OverflowIsSticky := by
  intro s t hstep
  rcases step_hostNext hstep with ⟨-, rfl⟩ | ⟨i, rest, hdecode, hn⟩
  · constructor <;> (intro hs ht; simp [hs] at ht)
  rcases hn.ovf_cases with ⟨⟨p, rfl⟩, hclear⟩ | ⟨hi, hkept, hfull⟩ | hsame
  · exact ⟨fun _ _ => ⟨p, rest, hdecode⟩,
      fun _ ht => absurd (hclear.symm.trans ht) Bool.false_ne_true⟩
  · refine ⟨fun hs ht => absurd (ht.symm.trans (hkept hs)) Bool.false_ne_true,
      fun hs ht => ⟨hfull (overflowOnFull_of_not_ovf hs) ht, ?_⟩⟩
    rcases hi with rfl | ⟨src, highScore, rfl⟩
    · exact .inl ⟨rest, hdecode⟩
    · exact .inr ⟨src, highScore, rest, hdecode⟩
  · constructor <;> (intro hs ht; simp [hsame, hs] at ht)

end Sys2Proof.Machine
end

section
/-! SUPPORT. Reset and hazards (70_reset_and_hazards.md): the initial mode, reset as one `INIT` after
power-on, and the bound on the ticks that empty and disarm the queue. -/

namespace Sys2Proof.Machine

/-! ## Reset -/

/-- Settles O9: each clause is the value that `State.reset` names, and an empty buffer reads as
zeros. -/
theorem resetIsTheInitialMode : Obligations.ResetIsTheInitialMode :=
  ⟨rfl, rfl, rfl, rfl, rfl, rfl, rfl, rfl, memory_read_nil, rfl, rfl⟩

/-- What `INIT` leaves after power-on is the reset state, but for the chain, which `INIT` does not
write. -/
theorem initEnd_powerOnFrom (u : State) :
    initEnd resetPins (State.powerOnFrom u) =
      { State.reset with sr := (State.powerOnFrom u).sr, out := (State.powerOnFrom u).out } :=
  rfl

/-- Settles O58: it is the end state of `INIT` on a block that was not started, so the assignment is
the operand's, and with empty traces, so the wire shows `BUS_INIT` alone. -/
theorem resetIsInitAfterPowerOn : Obligations.ResetIsInitAfterPowerOn := by
  intro u
  rw [exec_init, initEnd_powerOnFrom]

/-! ## The ticks that drain the queue -/

theorem eq_emptyQueue_of_hasCount_zero {q : Vector LcdOp qcap} (h : HasCount q 0) :
    q = emptyQueue := by
  refine Vector.ext fun i hi => ?_
  have hempty : q[i] = .pause := not_not.mp (mt (h.2 ⟨i, hi⟩).mpr (Nat.not_lt_zero i))
  rw [hempty, Vector.getElem_replicate]

/-- Ticks on a disarmed block leave it disarmed with its queue as it was (42_lcd_queue.md R151). -/
theorem ticks_of_disarmed {s : State} (hinit : s.initialized = true) (harmed : s.armed = false)
    (k : Nat) : ∃ t, ticks k s = .next t ∧ t.q = s.q ∧ t.armed = false := by
  induction k generalizing s with
  | zero => exact ⟨s, rfl, rfl, harmed⟩
  | succ k ih =>
    rw [ticks_succ_of_poll (pollOfDisarmedBlock s hinit harmed)]
    exact ih (s := { s with irqHold := false, status := .ok }) hinit harmed

/-- An empty queue is disarmed by the first tick and stays so. -/
theorem ticks_of_emptyQueue {s : State} (hinit : s.initialized = true) (hq : s.q = emptyQueue)
    (k : Nat) : ∃ t, ticks (k + 1) s = .next t ∧ t.q = emptyQueue ∧ t.armed = false := by
  rw [← hq]
  cases harmed : s.armed with
  | false => exact ticks_of_disarmed hinit harmed (k + 1)
  | true =>
    rw [ticks_succ_of_poll (exec_pollLcd_of_emptyQueue hinit harmed hq)]
    exact ticks_of_disarmed (s := { s with armed := false, irqHold := false, status := .ok })
      hinit rfl k

/-- A bound on the ticks that empty a queue of `c` entries: one for each entry and one for each
character the cursor has before it (70_reset_and_hazards.md R275). -/
def drainBound (c : Nat) (s : State) : Nat := c + (s.messageLength - s.messageProgress)

/-- A tick on an entry brings the bound down: the entry leaves the queue, or it is a
`WRITE_NEXT_CHAR` that stays and has moved the cursor (42_lcd_queue.md R152, R154). -/
theorem tickEnd_drainBound_lt {s : State} {c : Nat} (hc : HasCount s.q c)
    (hq : s.q[0] ≠ .pause) :
    ∃ d, HasCount (tickEnd s).q d ∧ drainBound d (tickEnd s) < drainBound c s := by
  have hpos : 0 < c := (hc.2 0).mpr hq
  by_cases hstay : s.q[0] = .writeNextChar ∧ cursorAfter s < s.messageLength
  · have hcursor : cursorAfter s = s.messageProgress + 1 := if_pos hstay.1
    have hqueue : queueAfter s = s.q := if_pos hstay
    refine ⟨c, by rwa [tickEnd_q, hqueue], ?_⟩
    simp only [drainBound, tickEnd_messageLength, tickEnd_messageProgress]
    omega
  · have hcursor : s.messageProgress ≤ cursorAfter s := by
      unfold cursorAfter
      split <;> omega
    have hqueue : queueAfter s = shiftQueue s.q := if_neg hstay
    refine ⟨c - 1, by rw [tickEnd_q, hqueue]; exact hasCount_shiftQueue hc, ?_⟩
    simp only [drainBound, tickEnd_messageLength, tickEnd_messageProgress]
    omega

/-- More ticks than the bound empty and disarm the queue: the last one finds it empty. -/
theorem ticks_of_drainBound_lt {s : State} {c k : Nat} (h : Inv s) (hc : HasCount s.q c)
    (hk : drainBound c s < k) :
    ∃ t, ticks k s = .next t ∧ t.q = emptyQueue ∧ t.armed = false := by
  induction k generalizing s c with
  | zero => exact absurd hk (Nat.not_lt_zero _)
  | succ k ih =>
    by_cases hq : s.q[0] = .pause
    · obtain rfl : c = 0 := Nat.eq_zero_of_not_pos fun hpos => (hc.2 0).mp hpos hq
      exact ticks_of_emptyQueue h.initialized (eq_emptyQueue_of_hasCount_zero hc) k
    · obtain ⟨d, hd, hlt⟩ := tickEnd_drainBound_lt hc hq
      rw [ticks_succ_of_poll (exec_pollLcd_of_entry h hq)]
      exact ih (h.tickEnd hq) hd (hlt.trans_le (Nat.le_of_lt_succ hk))

/-- Settles O54: at a command boundary the bound is at most the capacities, 20 entries and 26
characters. -/
theorem queueDrainsWithinBound : Obligations.QueueDrainsWithinBound := by
  intro s h
  obtain ⟨c, hc⟩ := h.queue
  have hbound : drainBound c s < 47 := by
    have hentries : c ≤ 20 := hc.1
    have hlength : s.messageLength ≤ 26 := h.length
    unfold drainBound
    omega
  exact ticks_of_drainBound_lt h hc hbound

end Sys2Proof.Machine
end

section
/-! SUPPORT. `WRITE_NEXT_CHAR` with the cursor outside the buffer (93_implementation_defined.md U6;
log 11): the miss that `executeOp_writeNextChar` leaves out. -/

namespace Sys2Proof.Machine

theorem memRead_of_msgcap_le {s : State} {p : Nat} (h : msgcap ≤ p) : s.memRead p = none :=
  if_neg (Nat.not_lt.mpr h)

theorem executeOp_writeNextChar_of_msgcap_le {s : State} (h : msgcap ≤ s.messageProgress) :
    executeOp .writeNextChar s = .fault (.messageOutOfRange s.messageProgress) := by
  have hread : s.memRead s.messageProgress = none := memRead_of_msgcap_le h
  simp only [executeOp, execWriteNextChar, hread]

/-- Settles O36: the read at the cursor misses the buffer, and the opcode answers a miss with the
fault that carries the cursor. -/
theorem writeNextCharOutsideFaults : Obligations.WriteNextCharOutsideFaults := by
  intro s hcursor
  calc exec .writeNextChar s
      = executeOp .writeNextChar s := exec_instrOf .writeNextChar s
    _ = .fault (.messageOutOfRange s.messageProgress) :=
        executeOp_writeNextChar_of_msgcap_le hcursor

end Sys2Proof.Machine
end
